-- ==== Sys2Proof/Word.lean ====
section
/-! DEFINITION. The word types of the core: bytes, 16-bit program addresses and label handles, 48-bit command words
(00_scope.md R5, R6; 30_encoding.md R81). -/

namespace Sys2Proof

/-- A byte value or a data or bit address: 8 bits, unsigned (R5 BYTE_W, DADDR_W, BADDR_W; R7). -/
abbrev Byte := BitVec 8

/-- A program address or a label handle: 16 bits (R5 PC_W, LABEL_W). Also the width of INFO (R260). -/
abbrev Half := BitVec 16

/-- A command word CW[47:0] (R81). Bit 47 is the most significant bit (R6). -/
abbrev CW := BitVec 48

/-- `zext_16(v)`: widen a byte to 16 bits with zeros (R7). -/
def zext16 (v : Byte) : Half := v.setWidth 16

end Sys2Proof
end

