-- ==== Sys2Proof/Syntax.lean ====
section
/-! DEFINITION. The commands of the core as syntax: the raw fields of a command word (30_encoding.md R81, R82), the
operands as the document's tagged variants (20_memory.md R59, R60), and `Instr`, one constructor per row of
spec/opcode_table.json (60 rows, 23 mnemonics). -/

namespace Sys2Proof

/-- Operand modes M1 and M2 (R82). -/
inductive Mode where
  | none
  | direct
  | indirect
  | immediate
  deriving DecidableEq, Repr

/-- The fields of a command word (R81). -/
structure Command where
  /-- OP, CW[47:40]. -/
  op : Byte
  /-- M1, CW[39:38]: mode of operand 1. -/
  m1 : Mode
  /-- M2, CW[37:36]: mode of operand 2. -/
  m2 : Mode
  /-- RSV, CW[35:32]. -/
  rsv : BitVec 4
  /-- F1, CW[31:24]: operand 1 field. -/
  f1 : Byte
  /-- F2, CW[23:16]: operand 2 field. -/
  f2 : Byte
  /-- X16, CW[15:0]: label handle or program address. -/
  x16 : Half
  deriving DecidableEq, Repr

/-- The 23 mnemonics of R84. -/
inductive Mnemonic where
  | mov | add | subb | anl | orl
  | inc | dec | rl | rr | da | org | mul
  | setb | clr | cpl
  | jz | jnz | jc | jnc | djnz | cjne | jb | jnb
  deriving DecidableEq, Repr

/-- A destination operand, or the first compared value of `cjne`: plain `X` or `@X` (R59, R82). -/
inductive Dst where
  | direct (addr : Byte)
  | indirect (ptr : Byte)
  deriving DecidableEq, Repr

/-- A source operand, or the second compared value of `cjne`: plain `X`, `@X` or `#X` (R60, R82). -/
inductive Src where
  | direct (addr : Byte)
  | indirect (ptr : Byte)
  | immediate (value : Byte)
  deriving DecidableEq, Repr

/-- One constructor per row of spec/opcode_table.json. `Dir`, `Ind`, `Imm` name the operand modes in order
(M1, then M2). A field that a format ignores (R83) is no argument. Every combination of arguments is a legal
command: the fields have the widths of R81 and a mode pair that R83 does not list has no constructor. -/
inductive Instr where
  -- `mov dst, src`: move (R141), format A2
  | movDirDir (dst src : Byte)
  | movDirInd (dst srcPtr : Byte)
  | movDirImm (dst imm : Byte)
  | movIndDir (dstPtr src : Byte)
  | movIndInd (dstPtr srcPtr : Byte)
  | movIndImm (dstPtr imm : Byte)
  -- `add dst, src`: add (R142), format A2
  | addDirDir (dst src : Byte)
  | addDirInd (dst srcPtr : Byte)
  | addDirImm (dst imm : Byte)
  | addIndDir (dstPtr src : Byte)
  | addIndInd (dstPtr srcPtr : Byte)
  | addIndImm (dstPtr imm : Byte)
  -- `subb dst, src`: subtract with borrow (R143), format A2
  | subbDirDir (dst src : Byte)
  | subbDirInd (dst srcPtr : Byte)
  | subbDirImm (dst imm : Byte)
  | subbIndDir (dstPtr src : Byte)
  | subbIndInd (dstPtr srcPtr : Byte)
  | subbIndImm (dstPtr imm : Byte)
  -- `anl dst, src`: bitwise AND (R145), format A2
  | anlDirDir (dst src : Byte)
  | anlDirInd (dst srcPtr : Byte)
  | anlDirImm (dst imm : Byte)
  | anlIndDir (dstPtr src : Byte)
  | anlIndInd (dstPtr srcPtr : Byte)
  | anlIndImm (dstPtr imm : Byte)
  -- `orl dst, src`: bitwise OR (R146), format A2
  | orlDirDir (dst src : Byte)
  | orlDirInd (dst srcPtr : Byte)
  | orlDirImm (dst imm : Byte)
  | orlIndDir (dstPtr src : Byte)
  | orlIndInd (dstPtr srcPtr : Byte)
  | orlIndImm (dstPtr imm : Byte)
  -- `inc op`: increment (R147), format A1
  | incDir (op : Byte)
  | incInd (opPtr : Byte)
  -- `dec op`: decrement (R148), format A1
  | decDir (op : Byte)
  | decInd (opPtr : Byte)
  -- `rl op`: rotate left (R149), format A1
  | rlDir (op : Byte)
  | rlInd (opPtr : Byte)
  -- `rr op`: rotate right (R150), format A1
  | rrDir (op : Byte)
  | rrInd (opPtr : Byte)
  -- `da op`: decimal conversion (R152), format A1
  | daDir (op : Byte)
  | daInd (opPtr : Byte)
  -- `org addr16`: set the program counter (R154), format ORG
  | org (addr : Half)
  -- `mul`: multiply of A and B (R155), format A0
  | mul
  -- `setb bit`, `clr bit`, `cpl bit` (R201, R202, R203), format BIT
  | setb (bit : Byte)
  | clr (bit : Byte)
  | cpl (bit : Byte)
  -- `jz`, `jnz`, `jc`, `jnc` label (R221 to R224), format BR
  | jz (label : Half)
  | jnz (label : Half)
  | jc (label : Half)
  | jnc (label : Half)
  -- `djnz op, label` (R225) and `djnz label` (R226), format DJ
  | djnzDir (op : Byte) (label : Half)
  | djnzInd (opPtr : Byte) (label : Half)
  | djnzAcc (label : Half)
  -- `cjne a, b, label`: compare and jump if not equal (R227), format CJ
  | cjneDirDir (fst snd : Byte) (label : Half)
  | cjneDirInd (fst sndPtr : Byte) (label : Half)
  | cjneDirImm (fst imm : Byte) (label : Half)
  | cjneIndDir (fstPtr snd : Byte) (label : Half)
  | cjneIndInd (fstPtr sndPtr : Byte) (label : Half)
  | cjneIndImm (fstPtr imm : Byte) (label : Half)
  -- `jb`, `jnb` (R228, R229), format BB: the core uses none of their fields
  | jb
  | jnb
  deriving DecidableEq, Repr

end Sys2Proof
end

