-- ==== Sys2Proof/Decode.lean ====
section
/-! DEFINITION. The decoder of 30_encoding.md (R81 to R88), total on every 48-bit word and on every list of bytes,
and the encoder written from the same tables (R81, R84 and the rows of spec/opcode_table.json). -/

namespace Sys2Proof

/-! ### Fields of a command word -/

/-- The mode values of R82. -/
def Mode.ofBits (b : BitVec 2) : Mode :=
  match b with
  | 0b00 => .none
  | 0b01 => .direct
  | 0b10 => .indirect
  | _ => .immediate

/-- The mode values of R82, the other way. -/
def Mode.bits : Mode → BitVec 2
  | .none => 0b00
  | .direct => 0b01
  | .indirect => 0b10
  | .immediate => 0b11

/-- The fields of a command word at the bit positions of R81. -/
def Command.ofWord (w : CW) : Command where
  op := w.extractLsb' 40 8
  m1 := .ofBits (w.extractLsb' 38 2)
  m2 := .ofBits (w.extractLsb' 36 2)
  rsv := w.extractLsb' 32 4
  f1 := w.extractLsb' 24 8
  f2 := w.extractLsb' 16 8
  x16 := w.extractLsb' 0 16

/-- CW[47:32] of a command word: the INFO of ILLEGAL_OPERAND (R86, R260). -/
def headOf (w : CW) : Half := w.extractLsb' 32 16

/-! ### Bytes: a command word carried as six bytes is big-endian (R56, R81) -/

/-- The six bytes of a command word, CW[47:40] first. -/
def wordBytes (w : CW) : List Byte :=
  [w.extractLsb' 40 8, w.extractLsb' 32 8, w.extractLsb' 24 8, w.extractLsb' 16 8, w.extractLsb' 8 8, w.extractLsb' 0 8]

/-- The command word in the first six bytes of a list, and the bytes after it. -/
def wordOfBytes? (bytes : List Byte) : Option (CW × List Byte) :=
  match bytes with
  | b0 :: b1 :: b2 :: b3 :: b4 :: b5 :: rest => some (b0 ++ b1 ++ b2 ++ b3 ++ b4 ++ b5, rest)
  | _ => none

/-! ### Opcode map and operand forms -/

/-- The opcode map of R84; `none` is an unassigned value (R85). -/
def Mnemonic.ofOpcode? (op : Byte) : Option Mnemonic :=
  match op with
  | 0x01 => some .mov
  | 0x02 => some .add
  | 0x03 => some .subb
  | 0x04 => some .anl
  | 0x05 => some .orl
  | 0x06 => some .inc
  | 0x07 => some .dec
  | 0x08 => some .rl
  | 0x09 => some .rr
  | 0x0A => some .da
  | 0x0B => some .org
  | 0x0C => some .mul
  | 0x10 => some .setb
  | 0x11 => some .clr
  | 0x12 => some .cpl
  | 0x20 => some .jz
  | 0x21 => some .jnz
  | 0x22 => some .jc
  | 0x23 => some .jnc
  | 0x24 => some .djnz
  | 0x25 => some .cjne
  | 0x26 => some .jb
  | 0x27 => some .jnb
  | _ => none

/-- Operand 1 as a destination: DIRECT or INDIRECT (R59, R82); an IMMEDIATE or absent one is not a destination (R86). -/
def Dst.ofField? (m : Mode) (f : Byte) : Option Dst :=
  match m with
  | .direct => some (.direct f)
  | .indirect => some (.indirect f)
  | .none => none
  | .immediate => none

/-- Operand 2 as a source: DIRECT, INDIRECT or IMMEDIATE (R60, R82). -/
def Src.ofField? (m : Mode) (f : Byte) : Option Src :=
  match m with
  | .direct => some (.direct f)
  | .indirect => some (.indirect f)
  | .immediate => some (.immediate f)
  | .none => none

/-- `mov dst, src`: the constructor for each of the six mode pairs of format A2 (R83). -/
def Instr.mov (d : Dst) (v : Src) : Instr :=
  match d, v with
  | .direct a, .direct b => .movDirDir a b
  | .direct a, .indirect b => .movDirInd a b
  | .direct a, .immediate b => .movDirImm a b
  | .indirect a, .direct b => .movIndDir a b
  | .indirect a, .indirect b => .movIndInd a b
  | .indirect a, .immediate b => .movIndImm a b

/-- `add dst, src`: the constructor for each of the six mode pairs of format A2 (R83). -/
def Instr.add (d : Dst) (v : Src) : Instr :=
  match d, v with
  | .direct a, .direct b => .addDirDir a b
  | .direct a, .indirect b => .addDirInd a b
  | .direct a, .immediate b => .addDirImm a b
  | .indirect a, .direct b => .addIndDir a b
  | .indirect a, .indirect b => .addIndInd a b
  | .indirect a, .immediate b => .addIndImm a b

/-- `subb dst, src`: the constructor for each of the six mode pairs of format A2 (R83). -/
def Instr.subb (d : Dst) (v : Src) : Instr :=
  match d, v with
  | .direct a, .direct b => .subbDirDir a b
  | .direct a, .indirect b => .subbDirInd a b
  | .direct a, .immediate b => .subbDirImm a b
  | .indirect a, .direct b => .subbIndDir a b
  | .indirect a, .indirect b => .subbIndInd a b
  | .indirect a, .immediate b => .subbIndImm a b

/-- `anl dst, src`: the constructor for each of the six mode pairs of format A2 (R83). -/
def Instr.anl (d : Dst) (v : Src) : Instr :=
  match d, v with
  | .direct a, .direct b => .anlDirDir a b
  | .direct a, .indirect b => .anlDirInd a b
  | .direct a, .immediate b => .anlDirImm a b
  | .indirect a, .direct b => .anlIndDir a b
  | .indirect a, .indirect b => .anlIndInd a b
  | .indirect a, .immediate b => .anlIndImm a b

/-- `orl dst, src`: the constructor for each of the six mode pairs of format A2 (R83). -/
def Instr.orl (d : Dst) (v : Src) : Instr :=
  match d, v with
  | .direct a, .direct b => .orlDirDir a b
  | .direct a, .indirect b => .orlDirInd a b
  | .direct a, .immediate b => .orlDirImm a b
  | .indirect a, .direct b => .orlIndDir a b
  | .indirect a, .indirect b => .orlIndInd a b
  | .indirect a, .immediate b => .orlIndImm a b

/-- `inc op`: the constructor for each of the two modes of operand 1 (R83). -/
def Instr.inc (d : Dst) : Instr :=
  match d with
  | .direct a => .incDir a
  | .indirect p => .incInd p

/-- `dec op`: the constructor for each of the two modes of operand 1 (R83). -/
def Instr.dec (d : Dst) : Instr :=
  match d with
  | .direct a => .decDir a
  | .indirect p => .decInd p

/-- `rl op`: the constructor for each of the two modes of operand 1 (R83). -/
def Instr.rl (d : Dst) : Instr :=
  match d with
  | .direct a => .rlDir a
  | .indirect p => .rlInd p

/-- `rr op`: the constructor for each of the two modes of operand 1 (R83). -/
def Instr.rr (d : Dst) : Instr :=
  match d with
  | .direct a => .rrDir a
  | .indirect p => .rrInd p

/-- `da op`: the constructor for each of the two modes of operand 1 (R83). -/
def Instr.da (d : Dst) : Instr :=
  match d with
  | .direct a => .daDir a
  | .indirect p => .daInd p

/-- `djnz op, label`: the constructor for each of the two modes of operand 1 (R83). -/
def Instr.djnz (d : Dst) (label : Half) : Instr :=
  match d with
  | .direct a => .djnzDir a label
  | .indirect p => .djnzInd p label

/-- `cjne dst, src, label`: the constructor for each of the six mode pairs of format CJ (R83). -/
def Instr.cjne (d : Dst) (v : Src) (label : Half) : Instr :=
  match d, v with
  | .direct a, .direct b => .cjneDirDir a b label
  | .direct a, .indirect b => .cjneDirInd a b label
  | .direct a, .immediate b => .cjneDirImm a b label
  | .indirect a, .direct b => .cjneIndDir a b label
  | .indirect a, .indirect b => .cjneIndInd a b label
  | .indirect a, .immediate b => .cjneIndImm a b label

/-- The operands of formats A2 and CJ (R83), if the mode pair is legal. -/
def Command.twoOperands? (c : Command) : Option (Dst × Src) :=
  match Dst.ofField? c.m1 c.f1, Src.ofField? c.m2 c.f2 with
  | some d, some v => some (d, v)
  | _, _ => none

/-- The operand of formats A1 and DJ (R83), if the mode pair is legal. -/
def Command.oneOperand? (c : Command) : Option Dst :=
  match c.m2 with
  | .none => Dst.ofField? c.m1 c.f1
  | _ => none

/-- Formats A0, ORG and BR (R83) take no operand. -/
def Command.noOperand (c : Command) : Bool := c.m1 == .none && c.m2 == .none

/-- The bit address of format BIT (R82, R83), if the mode pair is legal. -/
def Command.bitOperand? (c : Command) : Option Byte :=
  match c.m1, c.m2 with
  | .direct, .none => some c.f1
  | _, _ => none

/-- The command of a mnemonic with the operands of a word, or `none` where the mode pair is not legal for the
mnemonic's format (R83). -/
def Command.build? (m : Mnemonic) (c : Command) : Option Instr :=
  match m with
  | .mov => c.twoOperands?.map fun o => .mov o.1 o.2
  | .add => c.twoOperands?.map fun o => .add o.1 o.2
  | .subb => c.twoOperands?.map fun o => .subb o.1 o.2
  | .anl => c.twoOperands?.map fun o => .anl o.1 o.2
  | .orl => c.twoOperands?.map fun o => .orl o.1 o.2
  | .inc => c.oneOperand?.map .inc
  | .dec => c.oneOperand?.map .dec
  | .rl => c.oneOperand?.map .rl
  | .rr => c.oneOperand?.map .rr
  | .da => c.oneOperand?.map .da
  | .org => if c.noOperand then some (.org c.x16) else none
  | .mul => if c.noOperand then some .mul else none
  | .setb => c.bitOperand?.map .setb
  | .clr => c.bitOperand?.map .clr
  | .cpl => c.bitOperand?.map .cpl
  | .jz => if c.noOperand then some (.jz c.x16) else none
  | .jnz => if c.noOperand then some (.jnz c.x16) else none
  | .jc => if c.noOperand then some (.jc c.x16) else none
  | .jnc => if c.noOperand then some (.jnc c.x16) else none
  | .djnz => if c.noOperand then some (.djnzAcc c.x16) else c.oneOperand?.map fun d => .djnz d c.x16
  | .cjne => c.twoOperands?.map fun o => .cjne o.1 o.2 c.x16
  | .jb => some .jb
  | .jnb => some .jnb

/-! ### Decoding -/

/-- Why a command word is no command: the two failures of R88 that precede a command's own rule. -/
inductive CommandError where
  /-- Step (1): OP is not assigned (R85). -/
  | unknownOpcode (op : Byte)
  /-- Step (3): the mode pair is not legal for the format, or RSV is not 0000 (R86). Carries CW[47:32]. -/
  | illegalOperand (head : Half)
  deriving DecidableEq, Repr

/-- Decoding in the order of R88, from the fields of a word and CW[47:32]. `jb` and `jnb` are matched on OP alone
(step 2); that they raise NOT_IMPLEMENTED is their meaning (R228, R229). -/
def decodeFields (c : Command) (head : Half) : Except CommandError Instr :=
  match Mnemonic.ofOpcode? c.op with
  | none => .error (.unknownOpcode c.op)
  | some .jb => .ok .jb
  | some .jnb => .ok .jnb
  | some m =>
    if c.rsv = 0 then
      match c.build? m with
      | some i => .ok i
      | none => .error (.illegalOperand head)
    else .error (.illegalOperand head)

/-- Decode a command word. -/
def decode (w : CW) : Except CommandError Instr := decodeFields (.ofWord w) (headOf w)

/-- Why a list of bytes is no command: fewer than the six bytes of a command word (R81: "There is no other length"),
or a word that is no command. -/
inductive BytesError where
  | truncated
  | rejected (e : CommandError)
  deriving DecidableEq, Repr

/-- Decode the command word in the first six bytes of a list, and give the bytes after it (R81). -/
def decodeBytes (bytes : List Byte) : Except BytesError (Instr × List Byte) :=
  match wordOfBytes? bytes with
  | none => .error .truncated
  | some (w, rest) =>
    match decode w with
    | .ok i => .ok (i, rest)
    | .error e => .error (.rejected e)

/-- The instruction the decoder reads from a row's word. A command is one word of 48 bits (R81), so bit 0 of the
number is CW[0]; bits at and above `nbits` are 0. -/
def decodeTableWord (nbits w : Nat) : Option Instr :=
  match decode (BitVec.ofNat 48 (w % 2 ^ nbits)) with
  | .ok i => some i
  | .error _ => none

/-! ### Mnemonic and operand fields of an instruction -/

/-- The mnemonic of an instruction (R84). -/
def Instr.mnemonic (i : Instr) : Mnemonic :=
  match i with
  | .movDirDir _ _ => .mov
  | .movDirInd _ _ => .mov
  | .movDirImm _ _ => .mov
  | .movIndDir _ _ => .mov
  | .movIndInd _ _ => .mov
  | .movIndImm _ _ => .mov
  | .addDirDir _ _ => .add
  | .addDirInd _ _ => .add
  | .addDirImm _ _ => .add
  | .addIndDir _ _ => .add
  | .addIndInd _ _ => .add
  | .addIndImm _ _ => .add
  | .subbDirDir _ _ => .subb
  | .subbDirInd _ _ => .subb
  | .subbDirImm _ _ => .subb
  | .subbIndDir _ _ => .subb
  | .subbIndInd _ _ => .subb
  | .subbIndImm _ _ => .subb
  | .anlDirDir _ _ => .anl
  | .anlDirInd _ _ => .anl
  | .anlDirImm _ _ => .anl
  | .anlIndDir _ _ => .anl
  | .anlIndInd _ _ => .anl
  | .anlIndImm _ _ => .anl
  | .orlDirDir _ _ => .orl
  | .orlDirInd _ _ => .orl
  | .orlDirImm _ _ => .orl
  | .orlIndDir _ _ => .orl
  | .orlIndInd _ _ => .orl
  | .orlIndImm _ _ => .orl
  | .incDir _ => .inc
  | .incInd _ => .inc
  | .decDir _ => .dec
  | .decInd _ => .dec
  | .rlDir _ => .rl
  | .rlInd _ => .rl
  | .rrDir _ => .rr
  | .rrInd _ => .rr
  | .daDir _ => .da
  | .daInd _ => .da
  | .org _ => .org
  | .mul => .mul
  | .setb _ => .setb
  | .clr _ => .clr
  | .cpl _ => .cpl
  | .jz _ => .jz
  | .jnz _ => .jnz
  | .jc _ => .jc
  | .jnc _ => .jnc
  | .djnzDir _ _ => .djnz
  | .djnzInd _ _ => .djnz
  | .djnzAcc _ => .djnz
  | .cjneDirDir _ _ _ => .cjne
  | .cjneDirInd _ _ _ => .cjne
  | .cjneDirImm _ _ _ => .cjne
  | .cjneIndDir _ _ _ => .cjne
  | .cjneIndInd _ _ _ => .cjne
  | .cjneIndImm _ _ _ => .cjne
  | .jb => .jb
  | .jnb => .jnb

/-- M1 of a destination operand (R82). -/
def Dst.mode : Dst → Mode
  | .direct _ => .direct
  | .indirect _ => .indirect

/-- F1 of a destination operand (R82). -/
def Dst.field : Dst → Byte
  | .direct a => a
  | .indirect p => p

/-- M2 of a source operand (R82). -/
def Src.mode : Src → Mode
  | .direct _ => .direct
  | .indirect _ => .indirect
  | .immediate _ => .immediate

/-- F2 of a source operand (R82). -/
def Src.field : Src → Byte
  | .direct a => a
  | .indirect p => p
  | .immediate x => x

/-- CW[47:32] of an opcode and a mode pair, with RSV = 0000 (R81). -/
def headWith (op : Byte) (m1 m2 : Mode) : Half := op ++ m1.bits ++ m2.bits ++ (0 : BitVec 4)

/-! ### Encoding -/

/-- A command word from CW[47:32] (a row's match value) and the fields F1, F2 and X16 (R81). -/
def cw (head : Half) (f1 f2 : Byte) (x16 : Half) : CW := head ++ f1 ++ f2 ++ x16

/-- The command word of a command: the match value of its row of spec/opcode_table.json with its operands in their
fields, and 0 in every field the format ignores. For `jb` and `jnb`, whose mode fields are ignored, the modes of the
assembler's form `jb bit, label` (R90). -/
def encode (i : Instr) : CW :=
  match i with
  | .movDirDir dst src => cw 0x0150 dst src 0
  | .movDirInd dst srcPtr => cw 0x0160 dst srcPtr 0
  | .movDirImm dst imm => cw 0x0170 dst imm 0
  | .movIndDir dstPtr src => cw 0x0190 dstPtr src 0
  | .movIndInd dstPtr srcPtr => cw 0x01A0 dstPtr srcPtr 0
  | .movIndImm dstPtr imm => cw 0x01B0 dstPtr imm 0
  | .addDirDir dst src => cw 0x0250 dst src 0
  | .addDirInd dst srcPtr => cw 0x0260 dst srcPtr 0
  | .addDirImm dst imm => cw 0x0270 dst imm 0
  | .addIndDir dstPtr src => cw 0x0290 dstPtr src 0
  | .addIndInd dstPtr srcPtr => cw 0x02A0 dstPtr srcPtr 0
  | .addIndImm dstPtr imm => cw 0x02B0 dstPtr imm 0
  | .subbDirDir dst src => cw 0x0350 dst src 0
  | .subbDirInd dst srcPtr => cw 0x0360 dst srcPtr 0
  | .subbDirImm dst imm => cw 0x0370 dst imm 0
  | .subbIndDir dstPtr src => cw 0x0390 dstPtr src 0
  | .subbIndInd dstPtr srcPtr => cw 0x03A0 dstPtr srcPtr 0
  | .subbIndImm dstPtr imm => cw 0x03B0 dstPtr imm 0
  | .anlDirDir dst src => cw 0x0450 dst src 0
  | .anlDirInd dst srcPtr => cw 0x0460 dst srcPtr 0
  | .anlDirImm dst imm => cw 0x0470 dst imm 0
  | .anlIndDir dstPtr src => cw 0x0490 dstPtr src 0
  | .anlIndInd dstPtr srcPtr => cw 0x04A0 dstPtr srcPtr 0
  | .anlIndImm dstPtr imm => cw 0x04B0 dstPtr imm 0
  | .orlDirDir dst src => cw 0x0550 dst src 0
  | .orlDirInd dst srcPtr => cw 0x0560 dst srcPtr 0
  | .orlDirImm dst imm => cw 0x0570 dst imm 0
  | .orlIndDir dstPtr src => cw 0x0590 dstPtr src 0
  | .orlIndInd dstPtr srcPtr => cw 0x05A0 dstPtr srcPtr 0
  | .orlIndImm dstPtr imm => cw 0x05B0 dstPtr imm 0
  | .incDir op => cw 0x0640 op 0 0
  | .incInd opPtr => cw 0x0680 opPtr 0 0
  | .decDir op => cw 0x0740 op 0 0
  | .decInd opPtr => cw 0x0780 opPtr 0 0
  | .rlDir op => cw 0x0840 op 0 0
  | .rlInd opPtr => cw 0x0880 opPtr 0 0
  | .rrDir op => cw 0x0940 op 0 0
  | .rrInd opPtr => cw 0x0980 opPtr 0 0
  | .daDir op => cw 0x0A40 op 0 0
  | .daInd opPtr => cw 0x0A80 opPtr 0 0
  | .org addr => cw 0x0B00 0 0 addr
  | .mul => cw 0x0C00 0 0 0
  | .setb bit => cw 0x1040 bit 0 0
  | .clr bit => cw 0x1140 bit 0 0
  | .cpl bit => cw 0x1240 bit 0 0
  | .jz label => cw 0x2000 0 0 label
  | .jnz label => cw 0x2100 0 0 label
  | .jc label => cw 0x2200 0 0 label
  | .jnc label => cw 0x2300 0 0 label
  | .djnzDir op label => cw 0x2440 op 0 label
  | .djnzInd opPtr label => cw 0x2480 opPtr 0 label
  | .djnzAcc label => cw 0x2400 0 0 label
  | .cjneDirDir fst snd label => cw 0x2550 fst snd label
  | .cjneDirInd fst sndPtr label => cw 0x2560 fst sndPtr label
  | .cjneDirImm fst imm label => cw 0x2570 fst imm label
  | .cjneIndDir fstPtr snd label => cw 0x2590 fstPtr snd label
  | .cjneIndInd fstPtr sndPtr label => cw 0x25A0 fstPtr sndPtr label
  | .cjneIndImm fstPtr imm label => cw 0x25B0 fstPtr imm label
  | .jb => cw 0x2640 0 0 0
  | .jnb => cw 0x2740 0 0 0

end Sys2Proof
end

