-- ==== Sys2Proof/Config.lean ====
section
/-! DEFINITION. The implementation parameters of 00_scope.md R5 and the address sets of 20_memory.md R53, as plain data. A machine carries its parameters in `State.cfg`, so a statement about every state
is a statement about every value of every parameter ("A model of the core takes the parameters below as arguments").
The model has no opaque free value: the spec leaves no instruction's result open (notes/assumptions/3.md). -/

namespace Sys2Proof

/-- SUB_CY_RULE (R5, R121, decision D15): how the subtract mode of the Flag Unit sets CY. -/
inductive SubCyRule where
  | borrow
  | literalOr
  deriving DecidableEq, Repr

/-- ROTATE_DEST (R5, R151, decision D19): where `rl` and `rr` write. -/
inductive RotateDest where
  | acc
  | operand
  deriving DecidableEq, Repr

/-- DA_WIDE (R5, R153, decision D20): what `da` does with a value of 100 or more. -/
inductive DaWide where
  | truncate
  | fault
  deriving DecidableEq, Repr

/-- The parameters of one machine. The lists name the addresses the collaborators turn away; an empty list turns
none away. -/
structure Config where
  /-- ADDR_ACC: data address of the accumulator A (R5, R23). -/
  addrAcc : Byte
  /-- ADDR_B: data address of the second multiply register B (R5, R24). -/
  addrB : Byte
  /-- MUL_LO_ADDR: data address receiving the low byte of `mul` (R5, R155). -/
  mulLoAddr : Byte
  /-- MUL_HI_ADDR: data address receiving the high byte of `mul` (R5, R155). -/
  mulHiAddr : Byte
  /-- SUB_CY_RULE. -/
  subCyRule : SubCyRule
  /-- ROTATE_DEST. -/
  rotateDest : RotateDest
  /-- DA_WIDE. -/
  daWide : DaWide
  /-- The data addresses for which MEM_VALID is false (R53): reads and writes of them fail. -/
  memUnserved : List Byte
  /-- Served data addresses every write of which the memory collaborator fails (R53: "A collaborator may also fail a
  write of a served address"). A failure of one write alone is in `State.answers` (notes/assumptions/5.md). -/
  memWriteRefused : List Byte
  /-- The bit addresses for which BIT_VALID is false (R53). -/
  bitUnserved : List Byte
  /-- Served bit addresses every write of which the bit collaborator fails (R53; notes/assumptions/5.md). -/
  bitWriteRefused : List Byte
  /-- Program addresses that the program-counter collaborator always refuses to `org` (R154, I15). The reference
  dispatcher refuses none (R282). -/
  pcRefused : List Half
  deriving DecidableEq, Repr

/-- The test configuration of R5. DESIGN CHOICE for the reset state: the spec leaves these parameters OPEN
(notes/assumptions/1.md). -/
def Config.test : Config where
  addrAcc := 0xE0
  addrB := 0xF0
  mulLoAddr := 0xE0
  mulHiAddr := 0xF0
  subCyRule := .borrow
  rotateDest := .acc
  daWide := .truncate
  memUnserved := []
  memWriteRefused := []
  bitUnserved := []
  bitWriteRefused := []
  pcRefused := []

end Sys2Proof
end

