-- ==== Sys2Proof/Machine/State.lean ====
section
/-! DEFINITION. The state of the machine: the core's PSW, the collaborators' data and bit memories and their coming
answers to write requests, the status port, and the reference dispatcher's registers and tables (10_state.md R20 to R30;
20_memory.md R53; 60_exceptions.md R260, R280 to R283). -/

namespace Sys2Proof.Machine

/-- The status register: four independent flags with no layout and no address (R20). -/
structure Psw where
  /-- Carry. -/
  cy : Bool
  /-- Auxiliary carry. -/
  ac : Bool
  /-- Parity: an even count of one-bits. -/
  p : Bool
  /-- Overflow: the sign bit of a result. -/
  ov : Bool
  deriving DecidableEq, Repr

/-- STATUS, the eleven codes of R260. Codes 11 to 15 are never produced and have no name here (R260, V6). -/
inductive Status where
  | ok
  | notImplemented
  | unknownOpcode
  | illegalOperand
  | memReadFail
  | memWriteFail
  | bitReadFail
  | bitWriteFail
  | jumpFail
  | pcWriteFail
  | valueRange
  deriving DecidableEq, Repr

/-- Data memory: address and byte pairs in canonical form (`Memory.wf` in Machine/Ops.lean). -/
abbrev Memory := List Host.Cell

/-- Bit memory: bit address and bit pairs in canonical form (`BitMemory.wf`). -/
abbrev BitMemory := List (Nat × Bool)

/-- PROG: a partial map from program addresses to command words, held apart from data memory (R67, R280). -/
abbrev Program := List (Nat × CW)

/-- LABELS: a partial map from label handles to program addresses (R280). -/
abbrev Labels := List (Nat × Half)

/-- The state of one machine: the core, its collaborators and the reference dispatcher. -/
structure State where
  /-- The implementation parameters (R5). No command changes them. -/
  cfg : Config
  /-- PSW, the only state the core itself keeps (R20, R29). -/
  psw : Psw
  /-- Data memory, A and B among its bytes (R23, R24, R50). -/
  mem : Memory
  /-- Bit memory (R51). -/
  bits : BitMemory
  /-- The collaborators' answers to the coming write requests (`MemWrite`, `BitWrite`, `PcSet`), the next one first:
  `true` lets the request succeed, `false` fails it (R53: "A collaborator may also fail a write of a served address";
  when it does is its choice, 93_implementation_defined.md I3, I15). Each request uses one answer; once none is left,
  the collaborators fail no more. The model's own field. DESIGN CHOICE (notes/assumptions/5.md). -/
  answers : List Bool
  /-- PC of the reference dispatcher (R26, R280). -/
  pc : Half
  /-- ENTRY, the address at which the dispatcher starts (R280). -/
  entry : Half
  /-- PROG (R280). -/
  prog : Program
  /-- LABELS (R280). -/
  labels : Labels
  /-- The dispatcher's `target`: where `Jump` or `PcSet` asked the program counter to go (R281, R282). -/
  target : Option Half
  /-- STATUS of the last command (R260). -/
  status : Status
  /-- INFO of the last command (R260). -/
  info : Half
  /-- XFER of the last command: it made a control transfer (R260). -/
  xfer : Bool
  /-- The reference dispatcher has ended the run in FAULT(STATUS, INFO, PC) (R281, R283). -/
  stopped : Bool
  deriving DecidableEq, Repr

/-- How the reference dispatcher's run can have ended. No command's own rule raises one of these: a command that
fails returns a status and the machine goes to a next state (R262). -/
inductive Fault where
  /-- HALT(PC): raised by `step` where PC holds no command (R283). Safe: the spec itself ends the run there. -/
  | halt (pc : Half)
  /-- FAULT(STATUS, INFO, PC): raised by `step` on a state in which an earlier command of the run failed (R281,
  R283). Safe: the spec itself ends the run there. -/
  | failed (status : Status) (info pc : Half)
  deriving DecidableEq, Repr

/-- Why `exec` has no meaning for an instruction. -/
inductive Refusal where
  /-- The instruction of this mnemonic has no meaning yet: raised only by an arm of `exec` that says so. No arm does.
  Safe. -/
  | notModelled (mnemonic : String)
  deriving DecidableEq, Repr

/-- A launch of the machine (R280, R284): the platform supplies the parameters, the memories, PSW, the program, the
labels and ENTRY, and the collaborators choose their answers to write requests (R53); PC = ENTRY. No command has run yet: the status port shows OK, INFO 0 and no transfer, the dispatcher
has no target and has not ended the run. DESIGN CHOICE for these last five (notes/assumptions/4.md). -/
def State.launch (cfg : Config) (psw : Psw) (mem : Memory) (bits : BitMemory) (prog : Program) (labels : Labels)
    (entry : Half) (answers : List Bool) : State where
  cfg := cfg
  psw := psw
  mem := mem
  bits := bits
  answers := answers
  pc := entry
  entry := entry
  prog := prog
  labels := labels
  target := none
  status := .ok
  info := 0
  xfer := false
  stopped := false

/-- The machine right after reset. The core has no reset and the spec gives no reset value (R30, R300): this is the
launch with the test configuration, all flags clear, nothing listed in either memory, no program, no labels,
ENTRY = 0 and no write request failed. DESIGN CHOICE, unsafe (notes/assumptions/1.md, 2.md and 5.md). -/
def State.reset : State :=
  .launch .test ⟨false, false, false, false⟩ [] [] [] [] 0 []

end Sys2Proof.Machine
end

