-- ==== Sys2Proof/Machine/Store.lean ====
section
/-! DEFINITION. Tables with natural-number keys as sorted lists, and the four of the machine: data memory, bit memory,
PROG and LABELS. A table is in canonical form when its keys are strictly rising and below its bound, and, for the
memories, no entry equals what an unlisted address reads as. -/

namespace Sys2Proof.Machine

variable {α : Type}

/-- The value stored at a key, if any. -/
def Store.find? (m : List (Nat × α)) (k : Nat) : Option α :=
  match m with
  | [] => none
  | e :: m => if e.1 = k then some e.2 else Store.find? m k

/-- Store a value at a key, keeping the keys rising. -/
def Store.insert (m : List (Nat × α)) (k : Nat) (v : α) : List (Nat × α) :=
  match m with
  | [] => [(k, v)]
  | e :: m =>
    if k < e.1 then (k, v) :: e :: m
    else if e.1 = k then (k, v) :: m
    else e :: Store.insert m k v

/-- Take a key out. -/
def Store.erase (m : List (Nat × α)) (k : Nat) : List (Nat × α) :=
  match m with
  | [] => []
  | e :: m => if e.1 = k then Store.erase m k else e :: Store.erase m k

/-- Every key is at least `lo`, and the keys rise strictly. -/
def Store.risingFrom (lo : Nat) (m : List (Nat × α)) : Bool :=
  match m with
  | [] => true
  | e :: m => decide (lo ≤ e.1) && Store.risingFrom (e.1 + 1) m

/-- Strictly rising keys, each below `bound`. -/
def Store.wf (bound : Nat) (m : List (Nat × α)) : Bool :=
  Store.risingFrom 0 m && m.all (fun e => decide (e.1 < bound))

/-! ### Data memory (R50, R55) -/

/-- What an address that is not listed reads as. The spec leaves the launch contents of memory open (R30, I9).
DESIGN CHOICE, unsafe (notes/assumptions/2.md). -/
def Memory.unlisted : Byte := 0

/-- The byte at a data address. -/
def Memory.read (m : Memory) (a : Byte) : Byte := (Store.find? m a.toNat).getD Memory.unlisted

/-- Store a byte at a data address. -/
def Memory.write (m : Memory) (a v : Byte) : Memory :=
  if v = Memory.unlisted then Store.erase m a.toNat else Store.insert m a.toNat v

/-- The canonical form of data memory: 256 addresses (R50), strictly rising, no entry equal to an unlisted byte. -/
def Memory.wf (m : Memory) : Bool := Store.wf 256 m && m.all (fun c => c.2 != Memory.unlisted)

/-! ### Bit memory (R51, R55) -/

/-- What a bit address that is not listed reads as. DESIGN CHOICE, unsafe (notes/assumptions/2.md). -/
def BitMemory.unlisted : Bool := false

/-- The bit at a bit address. -/
def BitMemory.read (m : BitMemory) (b : Byte) : Bool := (Store.find? m b.toNat).getD BitMemory.unlisted

/-- Store a bit at a bit address. -/
def BitMemory.write (m : BitMemory) (b : Byte) (x : Bool) : BitMemory :=
  if x = BitMemory.unlisted then Store.erase m b.toNat else Store.insert m b.toNat x

/-- The canonical form of bit memory: 256 bit addresses (R51). -/
def BitMemory.wf (m : BitMemory) : Bool := Store.wf 256 m && m.all (fun c => c.2 != BitMemory.unlisted)

/-! ### Program and labels (R280) -/

/-- PROG(a): the command word at a program address, if there is one. -/
def Program.word? (p : Program) (a : Half) : Option CW := Store.find? p a.toNat

/-- Put a command word at a program address. -/
def Program.put (p : Program) (a : Half) (w : CW) : Program := Store.insert p a.toNat w

/-- The canonical form of PROG: 16-bit program addresses, strictly rising. -/
def Program.wf (p : Program) : Bool := Store.wf 65536 p

/-- LABELS(l): the program address of a label handle, if it is defined. -/
def Labels.address? (t : Labels) (l : Half) : Option Half := Store.find? t l.toNat

/-- The canonical form of LABELS: 16-bit handles, strictly rising. -/
def Labels.wf (t : Labels) : Bool := Store.wf 65536 t

end Sys2Proof.Machine
end

