-- ==== Sys2Proof/Machine/Ops.lean ====
section
/-! DEFINITION. The operations a command is written with: the port requests of 00_scope.md R8, `raise`, `finish` and
`finish_jumped`, the shape of a command (R9: statements in order, effects before a `raise` stay), and the byte helpers of
R10. `runCommand` is how the core ends every command with one status (R260). A failure takes no exception: R262 says
that it saves no state and goes to no handler, so recording STATUS and INFO is all there is to take. -/

namespace Sys2Proof.Machine

/-! ### Commands with port failures -/

/-- What a `raise` carries: a status and the 16-bit INFO value (R8, R260). -/
structure Failure where
  status : Status
  info : Half
  deriving DecidableEq, Repr

/-- A piece of a command: statements that change the state in order and may `raise`. A failure keeps the state it was
raised in: "the core performs no retries and no partial rollback" (R9). -/
abbrev Cmd (α : Type) := EStateM Failure State α

/-- `raise F(info)` (R8). -/
def raise {α : Type} (st : Status) (info : Half) : Cmd α := fun s => .error ⟨st, info⟩ s

/-- What the core answers when a command has ended: whether it made a control transfer. -/
abbrev Xfer := Bool

/-- `finish`: status OK and no control transfer (R8). -/
def finish : Cmd Xfer := fun s => .ok false s

/-- `finish_jumped`: status OK after a control transfer (R8, R260). -/
def finishJumped : Cmd Xfer := fun s => .ok true s

/-- Put STATUS, INFO and XFER on the status port (R260). -/
def State.report (s : State) (st : Status) (info : Half) (xfer : Xfer) : State :=
  { s with status := st, info := info, xfer := xfer }

/-- Run a command to its end: exactly one status (R260). A command that completes reports OK, INFO 0x0000 and its
XFER; one that raises reports its status and INFO with XFER = 0, on the state its earlier statements left (R263). -/
def runCommand (c : Cmd Xfer) (s : State) : Host.Outcome State Fault Refusal :=
  match c.run s with
  | .ok x s' => .next (s'.report .ok 0 x)
  | .error f s' => .next (s'.report f.status f.info false)

/-! ### How the collaborators answer requests (R53) -/

/-- The collaborators' choice for the next write request: it succeeds, where its address does not fail it (R53, I3,
I15). -/
def State.nextAnswer (s : State) : Bool := s.answers.headD true

/-- A write request has been answered. -/
def State.answered (s : State) : State := { s with answers := s.answers.tail }

/-- MEM_VALID(a): the memory collaborator serves the address. -/
def State.memServes (s : State) (a : Byte) : Bool := !s.cfg.memUnserved.contains a

/-- The memory collaborator lets the next write request succeed if it is one of this address: it serves the address,
does not always fail its writes, and does not fail this one. -/
def State.memAccepts (s : State) (a : Byte) : Bool :=
  s.memServes a && !s.cfg.memWriteRefused.contains a && s.nextAnswer

/-- BIT_VALID(b): the bit collaborator serves the bit address. -/
def State.bitServes (s : State) (b : Byte) : Bool := !s.cfg.bitUnserved.contains b

/-- The bit collaborator lets the next write request succeed if it is one of this bit address. -/
def State.bitAccepts (s : State) (b : Byte) : Bool :=
  s.bitServes b && !s.cfg.bitWriteRefused.contains b && s.nextAnswer

/-- The program-counter collaborator accepts the target if the next write request asks for it (R154, I15). -/
def State.pcAccepts (s : State) (t : Half) : Bool := !s.cfg.pcRefused.contains t && s.nextAnswer

/-- A write request has stored a byte. -/
def State.wrote (s : State) (a v : Byte) : State := { s.answered with mem := s.mem.write a v }

/-- A write request has stored a bit. -/
def State.wroteBit (s : State) (b : Byte) (x : Bool) : State := { s.answered with bits := s.bits.write b x }

/-- The dispatcher has noted a target (R282). -/
def State.noted (s : State) (t : Half) : State := { s with target := some t }

/-! ### Port requests (R8, R27, R282) -/

/-- `MemRead(a, 1)`. -/
def memRead (a : Byte) : Cmd Byte := fun s =>
  if s.memServes a then .ok (s.mem.read a) s else raise .memReadFail (zext16 a) s

/-- `MemWrite(a, 1, v)`: a request that fails stores nothing; either way it uses one answer. -/
def memWrite (a v : Byte) : Cmd Unit := fun s =>
  if s.memAccepts a then .ok () (s.wrote a v) else raise .memWriteFail (zext16 a) s.answered

/-- `BitRead(b)`. -/
def bitRead (b : Byte) : Cmd Bool := fun s =>
  if s.bitServes b then .ok (s.bits.read b) s else raise .bitReadFail (zext16 b) s

/-- `BitWrite(b, x)`: a request that fails stores nothing; either way it uses one answer. -/
def bitWrite (b : Byte) (x : Bool) : Cmd Unit := fun s =>
  if s.bitAccepts b then .ok () (s.wroteBit b x) else raise .bitWriteFail (zext16 b) s.answered

/-- `PcSet(t)`: the dispatcher notes the target (R282); the program counter itself moves when the command has ended
(R281). -/
def pcSet (t : Half) : Cmd Unit := fun s =>
  if s.pcAccepts t then .ok () (s.answered.noted t) else raise .pcWriteFail t s.answered

/-- `Jump(l)`: the label-resolution callback of the reference dispatcher (R282). -/
def jump (l : Half) : Cmd Unit := fun s =>
  match s.labels.address? l with
  | some t => .ok () (s.noted t)
  | none => raise .jumpFail l s

/-- A read of PSW (R8). -/
def getPsw : Cmd Psw := fun s => .ok s.psw s

/-- A write of PSW (R8). -/
def setPsw (p : Psw) : Cmd Unit := fun s => .ok () { s with psw := p }

/-- A read of the machine's parameters (R5). -/
def getConfig : Cmd Config := fun s => .ok s.cfg s

/-- `branch(cond, X16)` (R220). -/
def branch (cond : Bool) (label : Half) : Cmd Xfer :=
  if cond then do
    jump label
    finishJumped
  else finish

/-! ### Byte helpers (R10) -/

/-- `rol8(v)`. -/
def rol8 (v : Byte) : Byte := (v <<< 1) ||| (v >>> 7)

/-- `ror8(v)`. -/
def ror8 (v : Byte) : Byte := (v >>> 1) ||| (v <<< 7)

/-- `neg8(v)`: one's complement plus one, within one byte; neg8(0) = 0. -/
def neg8 (v : Byte) : Byte := ~~~v + 1

/-- `bcd2(v)`: the last two decimal digits as two BCD nibbles. -/
def bcd2 (v : Byte) : Byte := BitVec.ofNat 8 (16 * ((v.toNat / 10) % 10) + v.toNat % 10)

/-- The number of one-bits of a byte. -/
def oneBits (v : Byte) : Nat := (List.range 8).countP fun i => v.getLsbD i

/-- `parity_even(v)`. -/
def parityEven (v : Byte) : Bool := oneBits v % 2 == 0

/-! ### The status codes (R260) -/

/-- STATUS[3:0]. -/
def Status.code : Status → BitVec 4
  | .ok => 0
  | .notImplemented => 1
  | .unknownOpcode => 2
  | .illegalOperand => 3
  | .memReadFail => 4
  | .memWriteFail => 5
  | .bitReadFail => 6
  | .bitWriteFail => 7
  | .jumpFail => 8
  | .pcWriteFail => 9
  | .valueRange => 10

end Sys2Proof.Machine
end

