-- ==== Sys2Proof/Machine/Flags.lean ====
section
/-! DEFINITION. The Flag Unit (40_flag_unit.md R120 to R127): the `compute` primitive, the logic-result flags, and the
flag writes of `mul` and `cjne`. Arithmetic is on unbounded natural numbers with each reduction explicit (R7). -/

namespace Sys2Proof.Machine

/-- The mode of a compute (R120). -/
inductive ComputeMode where
  | add
  | sub
  deriving DecidableEq, Repr

/-- The four enables of a compute (R120). -/
structure FlagEnables where
  cy : Bool
  ac : Bool
  p : Bool
  ov : Bool
  deriving DecidableEq, Repr

/-- Every flag enabled (`add`, `subb`: R126). -/
def FlagEnables.all : FlagEnables := ⟨true, true, true, true⟩

/-- Every flag disabled (`dec`, `djnz`: R126). -/
def FlagEnables.none : FlagEnables := ⟨false, false, false, false⟩

/-- `sub_cy(a, b_orig, c)` (R121). -/
def subCarry (rule : SubCyRule) (a b : Byte) (c : Bool) : Bool :=
  match rule with
  | .borrow => decide (a.toNat < b.toNat)
  | .literalOr => c || decide (a.toNat < b.toNat)

/-- The carry of the low nibbles of two bytes (R122). -/
def nibbleCarry (a b : Byte) : Bool := decide (a.toNat % 16 + b.toNat % 16 ≥ 16)

/-- OV of a result: its sign bit (R124). -/
def signBit (r : Byte) : Bool := r.getLsbD 7

/-- Operand 2 as the adder takes it: negated in SUB mode (R120). -/
def addend (mode : ComputeMode) (b : Byte) : Byte :=
  match mode with
  | .add => b
  | .sub => neg8 b

/-- The result of a compute, reduced to a byte (R120, R125). -/
def computeResult (a b : Byte) (mode : ComputeMode) : Byte :=
  let s := a.toNat + (addend mode b).toNat
  BitVec.ofNat 8 (if s > 255 then s - 256 else s)

/-- The add-path carry c of a compute (R120). -/
def addCarry (a b : Byte) (mode : ComputeMode) : Bool :=
  decide (a.toNat + (addend mode b).toNat > 255)

/-- CY of a compute: the add-path carry, re-derived in SUB mode (R120, R121). -/
def computeCarry (rule : SubCyRule) (a b : Byte) (mode : ComputeMode) : Bool :=
  match mode with
  | .add => addCarry a b .add
  | .sub => subCarry rule a b (addCarry a b .sub)

/-- PSW after a compute: each enabled flag written, each disabled one kept (R120). -/
def computePsw (rule : SubCyRule) (a b : Byte) (mode : ComputeMode) (en : FlagEnables) (psw : Psw) : Psw where
  cy := if en.cy then computeCarry rule a b mode else psw.cy
  ac := if en.ac then nibbleCarry a b else psw.ac
  p := if en.p then parityEven (computeResult a b mode) else psw.p
  ov := if en.ov then signBit (computeResult a b mode) else psw.ov

/-- `compute(a, b, mode, enCY, enAC, enP, enOV)`: writes the enabled flags and returns the result; it cannot fail and
reads no port (R120). -/
def compute (a b : Byte) (mode : ComputeMode) (en : FlagEnables) : Cmd Byte := fun s =>
  .ok (computeResult a b mode) { s with psw := computePsw s.cfg.subCyRule a b mode en s.psw }

/-- PSW after `logic_flags(r)` (R127). -/
def logicPsw (r : Byte) (psw : Psw) : Psw := { psw with p := parityEven r, ov := signBit r }

/-- `logic_flags(r)`: P and OV (R127). -/
def logicFlags (r : Byte) : Cmd Unit := fun s => .ok () { s with psw := logicPsw r s.psw }

/-- `PSW.CY <- x`. -/
def writeCy (x : Bool) : Cmd Unit := fun s => .ok () { s with psw := { s.psw with cy := x } }

/-- `PSW.OV <- x`. -/
def writeOv (x : Bool) : Cmd Unit := fun s => .ok () { s with psw := { s.psw with ov := x } }

end Sys2Proof.Machine
end

