-- ==== Sys2Proof/Machine/Operands.lean ====
section
/-! DEFINITION. The Addressing Resolver (20_memory.md R59, R60): every operand form. -/

namespace Sys2Proof.Machine

/-- `resolve_dst(M, F)`: the effective address of a destination operand (R59). -/
def resolveDst (d : Dst) : Cmd Byte :=
  match d with
  | .direct a => pure a
  | .indirect p => memRead p

/-- `resolve_src(M, F)`: the value of a source operand (R60). -/
def resolveSrc (v : Src) : Cmd Byte :=
  match v with
  | .direct a => memRead a
  | .indirect p => do
    let a ← memRead p
    memRead a
  | .immediate x => pure x

/-- The effective address a destination names in a state (R59), whether or not its pointer byte can be read. -/
def State.dstAddr (s : State) (d : Dst) : Byte :=
  match d with
  | .direct a => a
  | .indirect p => s.mem.read p

/-- The value a source names in a state (R60), whether or not its bytes can be read. -/
def State.srcValue (s : State) (v : Src) : Byte :=
  match v with
  | .direct a => s.mem.read a
  | .indirect p => s.mem.read (s.mem.read p)
  | .immediate x => x

/-- The addresses the resolution of a destination reads, in order (R59). -/
def State.dstReads (_s : State) (d : Dst) : List Byte :=
  match d with
  | .direct _ => []
  | .indirect p => [p]

/-- The addresses the resolution of a source reads, in order (R60). -/
def State.srcReads (s : State) (v : Src) : List Byte :=
  match v with
  | .direct a => [a]
  | .indirect p => [p, s.mem.read p]
  | .immediate _ => []

/-- The first of a list of addresses that the memory collaborator does not serve: the one MEM_READ_FAIL reports
(R61, R264). -/
def State.firstUnserved (s : State) (addrs : List Byte) : Option Byte :=
  addrs.find? fun a => !s.memServes a

end Sys2Proof.Machine
end

