-- ==== Sys2Proof/Machine/Alu.lean ====
section
/-! DEFINITION. The ALU and logic commands (41_alu.md R140 to R155): the pseudocode of each, once over its operands, and
the meaning of each constructor. -/

namespace Sys2Proof.Machine

/-! ### Data transfer -/

/-- `mov dst, src` (R141). -/
def movCommand (d : Dst) (v : Src) : Cmd Xfer := do
  let ea ← resolveDst d
  let x ← resolveSrc v
  memWrite ea x
  finish

/-- `mov dst, src` (R141). -/
def execMovDirDir (dst src : Byte) (s : State) : Host.Outcome State Fault Refusal :=
  runCommand (movCommand (.direct dst) (.direct src)) s

/-- `mov dst, @srcPtr` (R141). -/
def execMovDirInd (dst srcPtr : Byte) (s : State) : Host.Outcome State Fault Refusal :=
  runCommand (movCommand (.direct dst) (.indirect srcPtr)) s

/-- `mov dst, #imm` (R141). -/
def execMovDirImm (dst imm : Byte) (s : State) : Host.Outcome State Fault Refusal :=
  runCommand (movCommand (.direct dst) (.immediate imm)) s

/-- `mov @dstPtr, src` (R141). -/
def execMovIndDir (dstPtr src : Byte) (s : State) : Host.Outcome State Fault Refusal :=
  runCommand (movCommand (.indirect dstPtr) (.direct src)) s

/-- `mov @dstPtr, @srcPtr` (R141). -/
def execMovIndInd (dstPtr srcPtr : Byte) (s : State) : Host.Outcome State Fault Refusal :=
  runCommand (movCommand (.indirect dstPtr) (.indirect srcPtr)) s

/-- `mov @dstPtr, #imm` (R141). -/
def execMovIndImm (dstPtr imm : Byte) (s : State) : Host.Outcome State Fault Refusal :=
  runCommand (movCommand (.indirect dstPtr) (.immediate imm)) s

/-! ### Arithmetic -/

/-- `add dst, src` (R142). -/
def addCommand (d : Dst) (v : Src) : Cmd Xfer := do
  let ea ← resolveDst d
  let x ← resolveSrc v
  let a ← memRead ea
  let r ← compute a x .add .all
  memWrite ea r
  finish

/-- `add dst, src` (R142). -/
def execAddDirDir (dst src : Byte) (s : State) : Host.Outcome State Fault Refusal :=
  runCommand (addCommand (.direct dst) (.direct src)) s

/-- `add dst, @srcPtr` (R142). -/
def execAddDirInd (dst srcPtr : Byte) (s : State) : Host.Outcome State Fault Refusal :=
  runCommand (addCommand (.direct dst) (.indirect srcPtr)) s

/-- `add dst, #imm` (R142). -/
def execAddDirImm (dst imm : Byte) (s : State) : Host.Outcome State Fault Refusal :=
  runCommand (addCommand (.direct dst) (.immediate imm)) s

/-- `add @dstPtr, src` (R142). -/
def execAddIndDir (dstPtr src : Byte) (s : State) : Host.Outcome State Fault Refusal :=
  runCommand (addCommand (.indirect dstPtr) (.direct src)) s

/-- `add @dstPtr, @srcPtr` (R142). -/
def execAddIndInd (dstPtr srcPtr : Byte) (s : State) : Host.Outcome State Fault Refusal :=
  runCommand (addCommand (.indirect dstPtr) (.indirect srcPtr)) s

/-- `add @dstPtr, #imm` (R142). -/
def execAddIndImm (dstPtr imm : Byte) (s : State) : Host.Outcome State Fault Refusal :=
  runCommand (addCommand (.indirect dstPtr) (.immediate imm)) s

/-- The carry-in step of `subb` (R143): a set CY is cleared and the subtrahend incremented within one byte. -/
def takeCarryIn (x : Byte) : Cmd Byte := do
  let psw ← getPsw
  if psw.cy then
    writeCy false
    pure (x + 1)
  else pure x

/-- `subb dst, src` (R143). CY is read and cleared after the operand reads (decision D25). -/
def subbCommand (d : Dst) (v : Src) : Cmd Xfer := do
  let ea ← resolveDst d
  let x ← resolveSrc v
  let a ← memRead ea
  let y ← takeCarryIn x
  let r ← compute a y .sub .all
  memWrite ea r
  finish

/-- `subb dst, src` (R143). -/
def execSubbDirDir (dst src : Byte) (s : State) : Host.Outcome State Fault Refusal :=
  runCommand (subbCommand (.direct dst) (.direct src)) s

/-- `subb dst, @srcPtr` (R143). -/
def execSubbDirInd (dst srcPtr : Byte) (s : State) : Host.Outcome State Fault Refusal :=
  runCommand (subbCommand (.direct dst) (.indirect srcPtr)) s

/-- `subb dst, #imm` (R143). -/
def execSubbDirImm (dst imm : Byte) (s : State) : Host.Outcome State Fault Refusal :=
  runCommand (subbCommand (.direct dst) (.immediate imm)) s

/-- `subb @dstPtr, src` (R143). -/
def execSubbIndDir (dstPtr src : Byte) (s : State) : Host.Outcome State Fault Refusal :=
  runCommand (subbCommand (.indirect dstPtr) (.direct src)) s

/-- `subb @dstPtr, @srcPtr` (R143). -/
def execSubbIndInd (dstPtr srcPtr : Byte) (s : State) : Host.Outcome State Fault Refusal :=
  runCommand (subbCommand (.indirect dstPtr) (.indirect srcPtr)) s

/-- `subb @dstPtr, #imm` (R143). -/
def execSubbIndImm (dstPtr imm : Byte) (s : State) : Host.Outcome State Fault Refusal :=
  runCommand (subbCommand (.indirect dstPtr) (.immediate imm)) s

/-! ### Logic -/

/-- `anl dst, src` (R145). -/
def anlCommand (d : Dst) (v : Src) : Cmd Xfer := do
  let ea ← resolveDst d
  let x ← resolveSrc v
  let a ← memRead ea
  let r := a &&& x
  logicFlags r
  memWrite ea r
  finish

/-- `anl dst, src` (R145). -/
def execAnlDirDir (dst src : Byte) (s : State) : Host.Outcome State Fault Refusal :=
  runCommand (anlCommand (.direct dst) (.direct src)) s

/-- `anl dst, @srcPtr` (R145). -/
def execAnlDirInd (dst srcPtr : Byte) (s : State) : Host.Outcome State Fault Refusal :=
  runCommand (anlCommand (.direct dst) (.indirect srcPtr)) s

/-- `anl dst, #imm` (R145). -/
def execAnlDirImm (dst imm : Byte) (s : State) : Host.Outcome State Fault Refusal :=
  runCommand (anlCommand (.direct dst) (.immediate imm)) s

/-- `anl @dstPtr, src` (R145). -/
def execAnlIndDir (dstPtr src : Byte) (s : State) : Host.Outcome State Fault Refusal :=
  runCommand (anlCommand (.indirect dstPtr) (.direct src)) s

/-- `anl @dstPtr, @srcPtr` (R145). -/
def execAnlIndInd (dstPtr srcPtr : Byte) (s : State) : Host.Outcome State Fault Refusal :=
  runCommand (anlCommand (.indirect dstPtr) (.indirect srcPtr)) s

/-- `anl @dstPtr, #imm` (R145). -/
def execAnlIndImm (dstPtr imm : Byte) (s : State) : Host.Outcome State Fault Refusal :=
  runCommand (anlCommand (.indirect dstPtr) (.immediate imm)) s

/-- `orl dst, src` (R146). -/
def orlCommand (d : Dst) (v : Src) : Cmd Xfer := do
  let ea ← resolveDst d
  let x ← resolveSrc v
  let a ← memRead ea
  let r := a ||| x
  logicFlags r
  memWrite ea r
  finish

/-- `orl dst, src` (R146). -/
def execOrlDirDir (dst src : Byte) (s : State) : Host.Outcome State Fault Refusal :=
  runCommand (orlCommand (.direct dst) (.direct src)) s

/-- `orl dst, @srcPtr` (R146). -/
def execOrlDirInd (dst srcPtr : Byte) (s : State) : Host.Outcome State Fault Refusal :=
  runCommand (orlCommand (.direct dst) (.indirect srcPtr)) s

/-- `orl dst, #imm` (R146). -/
def execOrlDirImm (dst imm : Byte) (s : State) : Host.Outcome State Fault Refusal :=
  runCommand (orlCommand (.direct dst) (.immediate imm)) s

/-- `orl @dstPtr, src` (R146). -/
def execOrlIndDir (dstPtr src : Byte) (s : State) : Host.Outcome State Fault Refusal :=
  runCommand (orlCommand (.indirect dstPtr) (.direct src)) s

/-- `orl @dstPtr, @srcPtr` (R146). -/
def execOrlIndInd (dstPtr srcPtr : Byte) (s : State) : Host.Outcome State Fault Refusal :=
  runCommand (orlCommand (.indirect dstPtr) (.indirect srcPtr)) s

/-- `orl @dstPtr, #imm` (R146). -/
def execOrlIndImm (dstPtr imm : Byte) (s : State) : Host.Outcome State Fault Refusal :=
  runCommand (orlCommand (.indirect dstPtr) (.immediate imm)) s

/-! ### Increment and decrement -/

/-- `inc op` (R147): no flag is written (decision D18). -/
def incCommand (d : Dst) : Cmd Xfer := do
  let ea ← resolveDst d
  let a ← memRead ea
  memWrite ea (a + 1)
  finish

/-- `inc op` (R147). -/
def execIncDir (op : Byte) (s : State) : Host.Outcome State Fault Refusal :=
  runCommand (incCommand (.direct op)) s

/-- `inc @opPtr` (R147). -/
def execIncInd (opPtr : Byte) (s : State) : Host.Outcome State Fault Refusal :=
  runCommand (incCommand (.indirect opPtr)) s

/-- `dec op` (R148): a subtract-mode compute with every flag disabled. -/
def decCommand (d : Dst) : Cmd Xfer := do
  let ea ← resolveDst d
  let a ← memRead ea
  let r ← compute a 1 .sub .none
  memWrite ea r
  finish

/-- `dec op` (R148). -/
def execDecDir (op : Byte) (s : State) : Host.Outcome State Fault Refusal :=
  runCommand (decCommand (.direct op)) s

/-- `dec @opPtr` (R148). -/
def execDecInd (opPtr : Byte) (s : State) : Host.Outcome State Fault Refusal :=
  runCommand (decCommand (.indirect opPtr)) s

/-! ### Rotate -/

/-- Where `rl` and `rr` write: ADDR_ACC or the operand's address, by ROTATE_DEST (R151). -/
def rotateTarget (cfg : Config) (ea : Byte) : Byte :=
  match cfg.rotateDest with
  | .acc => cfg.addrAcc
  | .operand => ea

/-- `rl op` (R149). -/
def rlCommand (d : Dst) : Cmd Xfer := do
  let ea ← resolveDst d
  let a ← memRead ea
  let cfg ← getConfig
  memWrite (rotateTarget cfg ea) (rol8 a)
  finish

/-- `rl op` (R149). -/
def execRlDir (op : Byte) (s : State) : Host.Outcome State Fault Refusal :=
  runCommand (rlCommand (.direct op)) s

/-- `rl @opPtr` (R149). -/
def execRlInd (opPtr : Byte) (s : State) : Host.Outcome State Fault Refusal :=
  runCommand (rlCommand (.indirect opPtr)) s

/-- `rr op` (R150). -/
def rrCommand (d : Dst) : Cmd Xfer := do
  let ea ← resolveDst d
  let a ← memRead ea
  let cfg ← getConfig
  memWrite (rotateTarget cfg ea) (ror8 a)
  finish

/-- `rr op` (R150). -/
def execRrDir (op : Byte) (s : State) : Host.Outcome State Fault Refusal :=
  runCommand (rrCommand (.direct op)) s

/-- `rr @opPtr` (R150). -/
def execRrInd (opPtr : Byte) (s : State) : Host.Outcome State Fault Refusal :=
  runCommand (rrCommand (.indirect opPtr)) s

/-! ### Decimal conversion -/

/-- The range check of `da` (R152, R153): a value of 100 or more fails under DA_WIDE = FAULT. -/
def daRangeCheck (a : Byte) : Cmd Unit := do
  let cfg ← getConfig
  if a.toNat ≥ 100 ∧ cfg.daWide = .fault then raise .valueRange (zext16 a)
  else pure ()

/-- `da op` (R152). -/
def daCommand (d : Dst) : Cmd Xfer := do
  let ea ← resolveDst d
  let a ← memRead ea
  daRangeCheck a
  memWrite ea (bcd2 a)
  finish

/-- `da op` (R152). -/
def execDaDir (op : Byte) (s : State) : Host.Outcome State Fault Refusal :=
  runCommand (daCommand (.direct op)) s

/-- `da @opPtr` (R152). -/
def execDaInd (opPtr : Byte) (s : State) : Host.Outcome State Fault Refusal :=
  runCommand (daCommand (.indirect opPtr)) s

/-! ### Origin -/

/-- `org addr16` (R154). A successful `PcSet` is a control transfer: XFER = 1 (R260, vector V-F-10; R140's general
sentence says `finish`). DEDUCED (notes/assumptions/6.md). -/
def orgCommand (addr : Half) : Cmd Xfer := do
  pcSet addr
  finishJumped

/-- `org addr16` (R154). -/
def execOrg (addr : Half) (s : State) : Host.Outcome State Fault Refusal :=
  runCommand (orgCommand addr) s

/-! ### Multiply -/

/-- The 16-bit product of two bytes (R155). -/
def product (a b : Byte) : Half := BitVec.ofNat 16 (a.toNat * b.toNat)

/-- p[7:0] (R155). -/
def lowByte (p : Half) : Byte := p.extractLsb' 0 8

/-- p[15:8] (R155). -/
def highByte (p : Half) : Byte := p.extractLsb' 8 8

/-- `mul` (R155): A is read before B, the flags are written before the bytes, the low byte before the high one
(decision D12). -/
def mulCommand : Cmd Xfer := do
  let cfg ← getConfig
  let a ← memRead cfg.addrAcc
  let b ← memRead cfg.addrB
  let p := product a b
  writeCy false
  writeOv (highByte p != 0)
  memWrite cfg.mulLoAddr (lowByte p)
  memWrite cfg.mulHiAddr (highByte p)
  finish

/-- `mul` (R155). -/
def execMul (s : State) : Host.Outcome State Fault Refusal :=
  runCommand mulCommand s

end Sys2Proof.Machine
end

