-- ==== Sys2Proof/Machine/Bit.lean ====
section
/-! DEFINITION. The bit commands (42_bit.md R200 to R203). -/

namespace Sys2Proof.Machine

/-- `setb bit` (R201): the bit is not read first. -/
def setbCommand (b : Byte) : Cmd Xfer := do
  bitWrite b true
  finish

/-- `setb bit` (R201). -/
def execSetb (bit : Byte) (s : State) : Host.Outcome State Fault Refusal :=
  runCommand (setbCommand bit) s

/-- `clr bit` (R202): the bit is not read first. -/
def clrCommand (b : Byte) : Cmd Xfer := do
  bitWrite b false
  finish

/-- `clr bit` (R202). -/
def execClr (bit : Byte) (s : State) : Host.Outcome State Fault Refusal :=
  runCommand (clrCommand bit) s

/-- `cpl bit` (R203). -/
def cplCommand (b : Byte) : Cmd Xfer := do
  let x ← bitRead b
  bitWrite b (!x)
  finish

/-- `cpl bit` (R203). -/
def execCpl (bit : Byte) (s : State) : Host.Outcome State Fault Refusal :=
  runCommand (cplCommand bit) s

end Sys2Proof.Machine
end

