-- ==== Sys2Proof/Machine/Control.lean ====
section
/-! DEFINITION. The conditional branch commands (43_control.md R220 to R229). -/

namespace Sys2Proof.Machine

/-! ### Branches on A and on CY -/

/-- `jz label` (R221). -/
def jzCommand (label : Half) : Cmd Xfer := do
  let cfg ← getConfig
  let a ← memRead cfg.addrAcc
  branch (a == 0) label

/-- `jz label` (R221). -/
def execJz (label : Half) (s : State) : Host.Outcome State Fault Refusal :=
  runCommand (jzCommand label) s

/-- `jnz label` (R222). -/
def jnzCommand (label : Half) : Cmd Xfer := do
  let cfg ← getConfig
  let a ← memRead cfg.addrAcc
  branch (a != 0) label

/-- `jnz label` (R222). -/
def execJnz (label : Half) (s : State) : Host.Outcome State Fault Refusal :=
  runCommand (jnzCommand label) s

/-- `jc label` (R223): no port is read before the condition. -/
def jcCommand (label : Half) : Cmd Xfer := do
  let psw ← getPsw
  branch psw.cy label

/-- `jc label` (R223). -/
def execJc (label : Half) (s : State) : Host.Outcome State Fault Refusal :=
  runCommand (jcCommand label) s

/-- `jnc label` (R224): no port is read before the condition. -/
def jncCommand (label : Half) : Cmd Xfer := do
  let psw ← getPsw
  branch (!psw.cy) label

/-- `jnc label` (R224). -/
def execJnc (label : Half) (s : State) : Host.Outcome State Fault Refusal :=
  runCommand (jncCommand label) s

/-! ### Decrement and jump -/

/-- The decrement of `djnz` at an effective address, and the branch on its result (R225, R226). The decrement is
written before the condition is evaluated; no flag is written (decision D21). -/
def decrementAndBranch (ea : Byte) (label : Half) : Cmd Xfer := do
  let a ← memRead ea
  let r ← compute a 1 .sub .none
  memWrite ea r
  branch (r != 0) label

/-- `djnz op, label` (R225). -/
def djnzCommand (d : Dst) (label : Half) : Cmd Xfer := do
  let ea ← resolveDst d
  decrementAndBranch ea label

/-- `djnz op, label` (R225). -/
def execDjnzDir (op : Byte) (label : Half) (s : State) : Host.Outcome State Fault Refusal :=
  runCommand (djnzCommand (.direct op) label) s

/-- `djnz @opPtr, label` (R225). -/
def execDjnzInd (opPtr : Byte) (label : Half) (s : State) : Host.Outcome State Fault Refusal :=
  runCommand (djnzCommand (.indirect opPtr) label) s

/-- `djnz label` (R226): the address defaults to the accumulator. -/
def djnzAccCommand (label : Half) : Cmd Xfer := do
  let cfg ← getConfig
  decrementAndBranch cfg.addrAcc label

/-- `djnz label` (R226). -/
def execDjnzAcc (label : Half) (s : State) : Host.Outcome State Fault Refusal :=
  runCommand (djnzAccCommand label) s

/-! ### Compare and jump -/

/-- `cjne a, b, label` (R227). -/
def cjneCommand (d : Dst) (v : Src) (label : Half) : Cmd Xfer := do
  let ea ← resolveDst d
  let y ← resolveSrc v
  let x ← memRead ea
  if x ≠ y then
    writeCy (decide (x.toNat < y.toNat))
    branch true label
  else
    writeCy false
    branch false label

/-- `cjne fst, snd, label` (R227). -/
def execCjneDirDir (fst snd : Byte) (label : Half) (s : State) : Host.Outcome State Fault Refusal :=
  runCommand (cjneCommand (.direct fst) (.direct snd) label) s

/-- `cjne fst, @sndPtr, label` (R227). -/
def execCjneDirInd (fst sndPtr : Byte) (label : Half) (s : State) : Host.Outcome State Fault Refusal :=
  runCommand (cjneCommand (.direct fst) (.indirect sndPtr) label) s

/-- `cjne fst, #imm, label` (R227). -/
def execCjneDirImm (fst imm : Byte) (label : Half) (s : State) : Host.Outcome State Fault Refusal :=
  runCommand (cjneCommand (.direct fst) (.immediate imm) label) s

/-- `cjne @fstPtr, snd, label` (R227). -/
def execCjneIndDir (fstPtr snd : Byte) (label : Half) (s : State) : Host.Outcome State Fault Refusal :=
  runCommand (cjneCommand (.indirect fstPtr) (.direct snd) label) s

/-- `cjne @fstPtr, @sndPtr, label` (R227). -/
def execCjneIndInd (fstPtr sndPtr : Byte) (label : Half) (s : State) : Host.Outcome State Fault Refusal :=
  runCommand (cjneCommand (.indirect fstPtr) (.indirect sndPtr) label) s

/-- `cjne @fstPtr, #imm, label` (R227). -/
def execCjneIndImm (fstPtr imm : Byte) (label : Half) (s : State) : Host.Outcome State Fault Refusal :=
  runCommand (cjneCommand (.indirect fstPtr) (.immediate imm) label) s

/-! ### Not implemented -/

/-- `raise NOT_IMPLEMENTED(zext_16(OP))` (R228, R229): before any port access, whatever the other fields hold. -/
def notImplementedCommand (op : Byte) : Cmd Xfer := raise .notImplemented (zext16 op)

/-- `jb bit, label` (R228): its effect is the status NOT_IMPLEMENTED. -/
def execJb (s : State) : Host.Outcome State Fault Refusal :=
  runCommand (notImplementedCommand 0x26) s

/-- `jnb bit, label` (R229): its effect is the status NOT_IMPLEMENTED. -/
def execJnb (s : State) : Host.Outcome State Fault Refusal :=
  runCommand (notImplementedCommand 0x27) s

end Sys2Proof.Machine
end

