-- ==== Sys2Proof/Machine/Dispatch.lean ====
section
/-! DEFINITION. What the core does with a decoded command: one arm per constructor. -/

namespace Sys2Proof.Machine

/-- The core executes one command: its port requests, its effects and its status (R28, R88 step 4, R260). -/
def exec (i : Instr) (s : State) : Host.Outcome State Fault Refusal :=
  match i with
  | .movDirDir dst src => Sys2Proof.Machine.execMovDirDir dst src s
  | .movDirInd dst srcPtr => Sys2Proof.Machine.execMovDirInd dst srcPtr s
  | .movDirImm dst imm => Sys2Proof.Machine.execMovDirImm dst imm s
  | .movIndDir dstPtr src => Sys2Proof.Machine.execMovIndDir dstPtr src s
  | .movIndInd dstPtr srcPtr => Sys2Proof.Machine.execMovIndInd dstPtr srcPtr s
  | .movIndImm dstPtr imm => Sys2Proof.Machine.execMovIndImm dstPtr imm s
  | .addDirDir dst src => Sys2Proof.Machine.execAddDirDir dst src s
  | .addDirInd dst srcPtr => Sys2Proof.Machine.execAddDirInd dst srcPtr s
  | .addDirImm dst imm => Sys2Proof.Machine.execAddDirImm dst imm s
  | .addIndDir dstPtr src => Sys2Proof.Machine.execAddIndDir dstPtr src s
  | .addIndInd dstPtr srcPtr => Sys2Proof.Machine.execAddIndInd dstPtr srcPtr s
  | .addIndImm dstPtr imm => Sys2Proof.Machine.execAddIndImm dstPtr imm s
  | .subbDirDir dst src => Sys2Proof.Machine.execSubbDirDir dst src s
  | .subbDirInd dst srcPtr => Sys2Proof.Machine.execSubbDirInd dst srcPtr s
  | .subbDirImm dst imm => Sys2Proof.Machine.execSubbDirImm dst imm s
  | .subbIndDir dstPtr src => Sys2Proof.Machine.execSubbIndDir dstPtr src s
  | .subbIndInd dstPtr srcPtr => Sys2Proof.Machine.execSubbIndInd dstPtr srcPtr s
  | .subbIndImm dstPtr imm => Sys2Proof.Machine.execSubbIndImm dstPtr imm s
  | .anlDirDir dst src => Sys2Proof.Machine.execAnlDirDir dst src s
  | .anlDirInd dst srcPtr => Sys2Proof.Machine.execAnlDirInd dst srcPtr s
  | .anlDirImm dst imm => Sys2Proof.Machine.execAnlDirImm dst imm s
  | .anlIndDir dstPtr src => Sys2Proof.Machine.execAnlIndDir dstPtr src s
  | .anlIndInd dstPtr srcPtr => Sys2Proof.Machine.execAnlIndInd dstPtr srcPtr s
  | .anlIndImm dstPtr imm => Sys2Proof.Machine.execAnlIndImm dstPtr imm s
  | .orlDirDir dst src => Sys2Proof.Machine.execOrlDirDir dst src s
  | .orlDirInd dst srcPtr => Sys2Proof.Machine.execOrlDirInd dst srcPtr s
  | .orlDirImm dst imm => Sys2Proof.Machine.execOrlDirImm dst imm s
  | .orlIndDir dstPtr src => Sys2Proof.Machine.execOrlIndDir dstPtr src s
  | .orlIndInd dstPtr srcPtr => Sys2Proof.Machine.execOrlIndInd dstPtr srcPtr s
  | .orlIndImm dstPtr imm => Sys2Proof.Machine.execOrlIndImm dstPtr imm s
  | .incDir op => Sys2Proof.Machine.execIncDir op s
  | .incInd opPtr => Sys2Proof.Machine.execIncInd opPtr s
  | .decDir op => Sys2Proof.Machine.execDecDir op s
  | .decInd opPtr => Sys2Proof.Machine.execDecInd opPtr s
  | .rlDir op => Sys2Proof.Machine.execRlDir op s
  | .rlInd opPtr => Sys2Proof.Machine.execRlInd opPtr s
  | .rrDir op => Sys2Proof.Machine.execRrDir op s
  | .rrInd opPtr => Sys2Proof.Machine.execRrInd opPtr s
  | .daDir op => Sys2Proof.Machine.execDaDir op s
  | .daInd opPtr => Sys2Proof.Machine.execDaInd opPtr s
  | .org addr => Sys2Proof.Machine.execOrg addr s
  | .mul => Sys2Proof.Machine.execMul s
  | .setb bit => Sys2Proof.Machine.execSetb bit s
  | .clr bit => Sys2Proof.Machine.execClr bit s
  | .cpl bit => Sys2Proof.Machine.execCpl bit s
  | .jz label => Sys2Proof.Machine.execJz label s
  | .jnz label => Sys2Proof.Machine.execJnz label s
  | .jc label => Sys2Proof.Machine.execJc label s
  | .jnc label => Sys2Proof.Machine.execJnc label s
  | .djnzDir op label => Sys2Proof.Machine.execDjnzDir op label s
  | .djnzInd opPtr label => Sys2Proof.Machine.execDjnzInd opPtr label s
  | .djnzAcc label => Sys2Proof.Machine.execDjnzAcc label s
  | .cjneDirDir fst snd label => Sys2Proof.Machine.execCjneDirDir fst snd label s
  | .cjneDirInd fst sndPtr label => Sys2Proof.Machine.execCjneDirInd fst sndPtr label s
  | .cjneDirImm fst imm label => Sys2Proof.Machine.execCjneDirImm fst imm label s
  | .cjneIndDir fstPtr snd label => Sys2Proof.Machine.execCjneIndDir fstPtr snd label s
  | .cjneIndInd fstPtr sndPtr label => Sys2Proof.Machine.execCjneIndInd fstPtr sndPtr label s
  | .cjneIndImm fstPtr imm label => Sys2Proof.Machine.execCjneIndImm fstPtr imm label s
  | .jb => Sys2Proof.Machine.execJb s
  | .jnb => Sys2Proof.Machine.execJnb s

end Sys2Proof.Machine
end

