-- ==== Sys2Proof/Machine/Command.lean ====
section
/-! DEFINITION. The command port of the core: what it does with a command word (10_state.md R27, R28; 30_encoding.md
R85, R86, R88). -/

namespace Sys2Proof.Machine

/-- STATUS and INFO of a word that is no command (R85, R86, R260). -/
def failureOf (e : CommandError) : Failure :=
  match e with
  | .unknownOpcode op => ⟨.unknownOpcode, zext16 op⟩
  | .illegalOperand head => ⟨.illegalOperand, head⟩

/-- Present a command word to the core (R28): the decode order of R88. A word that is no command changes nothing but
the status port; it raises a status and takes no trap (R262). -/
def present (w : CW) (s : State) : Host.Outcome State Fault Refusal :=
  match decode w with
  | .ok i => exec i s
  | .error e => .next (s.report (failureOf e).status (failureOf e).info false)

end Sys2Proof.Machine
end

