-- ==== Sys2Proof/Machine/Dispatcher.lean ====
section
/-! DEFINITION. The reference dispatcher (60_exceptions.md R280 to R283): fetch, present, advance. -/

namespace Sys2Proof.Machine

/-- PROG(PC) (R281). -/
def State.fetch (s : State) : Option CW := s.prog.word? s.pc

/-- `target <- none` (R281). -/
def State.clearTarget (s : State) : State := { s with target := none }

/-- What the dispatcher does with a command's status (R281): a failure ends the run with PC unchanged; a control
transfer moves PC to the target; otherwise PC advances by one command, modulo 65536. A transfer always has a target
(`State.Inv`), so the default of `getD` is never taken on a reachable state. -/
def State.advance (s : State) : State :=
  if s.status ≠ .ok then { s with stopped := true }
  else if s.xfer then { s with pc := s.target.getD s.pc }
  else { s with pc := s.pc + 1 }

/-- One step of the reference dispatcher (R281, R283). The step that runs a failing command is a next state: the
command's partial effects, its STATUS and INFO, PC unchanged, and the run ended. From there, and where PC holds no
command, the dispatcher has no step: FAULT(STATUS, INFO, PC) and HALT(PC) (notes/assumptions/7.md). -/
def dispatcherStep (s : State) : Host.Outcome State Fault Refusal :=
  if s.stopped then .fault (.failed s.status s.info s.pc)
  else
    match s.fetch with
    | none => .fault (.halt s.pc)
    | some w =>
      match present w s.clearTarget with
      | .next t => .next t.advance
      | .fault r => .fault r
      | .refused r => .refused r

/-- A state about to run a word: the word stands in PROG at PC and the run has not ended. -/
def State.loadWord (s : State) (w : CW) : State :=
  { s with prog := s.prog.put s.pc w, stopped := false }

end Sys2Proof.Machine
end

