-- ==== Sys2Proof/Machine/HostPort.lean ====
section
/-! DEFINITION. What the host may do between commands (60_exceptions.md R284): read and write any byte, bit or flag, the
flags through the flag port (10_state.md R22). These are no part of `step`: no command and no dispatcher step performs
one (notes/assumptions/8.md). -/

namespace Sys2Proof.Machine

/-- The four flags as names on the flag port (R22). -/
inductive Flag where
  | cy
  | ac
  | p
  | ov
  deriving DecidableEq, Repr

/-- A flag-port read (R22). -/
def State.readFlag (s : State) (f : Flag) : Bool :=
  match f with
  | .cy => s.psw.cy
  | .ac => s.psw.ac
  | .p => s.psw.p
  | .ov => s.psw.ov

/-- A flag-port write (R22): each flag independently. -/
def State.writeFlag (s : State) (f : Flag) (x : Bool) : State :=
  match f with
  | .cy => { s with psw := { s.psw with cy := x } }
  | .ac => { s with psw := { s.psw with ac := x } }
  | .p => { s with psw := { s.psw with p := x } }
  | .ov => { s with psw := { s.psw with ov := x } }

/-- An access of the host between two commands that changes the state (R284). -/
inductive HostAction where
  | writeFlag (f : Flag) (x : Bool)
  | writeByte (a v : Byte)
  | writeBit (b : Byte) (x : Bool)
  deriving DecidableEq, Repr

/-- The state after a host action (R22, R284). -/
def State.hostAct (s : State) (h : HostAction) : State :=
  match h with
  | .writeFlag f x => s.writeFlag f x
  | .writeByte a v => { s with mem := s.mem.write a v }
  | .writeBit b x => { s with bits := s.bits.write b x }

end Sys2Proof.Machine
end

