-- ==== Sys2Proof/Machine/Step.lean ====
section
/-! DEFINITION. One step of the machine: the reference dispatcher's (60_exceptions.md R281). -/

namespace Sys2Proof.Machine

/-- One step (R281). -/
def step (s : State) : Host.Outcome State Fault Refusal := dispatcherStep s

/-- `s` with the word `w` of `nbits` bits where `step` fetches its next command, and the run not ended. -/
def State.withFetchWord (s : State) (nbits w : Nat) : State :=
  s.loadWord (BitVec.ofNat 48 (w % 2 ^ nbits))

end Sys2Proof.Machine
end

