-- ==== Sys2Proof/WellFormed.lean ====
section
/-! DEFINITION. When a command word is legal, written from the tables of 30_encoding.md R83, R84 and R86 as they
stand there, independently of the decoder (Decode.lean). An `Instr` needs no check of its own: every term of it is a
legal command (Syntax.lean); what can be ill-formed is a raw `Command`. -/

namespace Sys2Proof

/-- The formats of R83. -/
inductive Format where
  | a2 | a1 | a0 | org | bit | br | dj | cj | bb
  deriving DecidableEq, Repr

/-- The opcode map of R84. -/
def opcodeTable : List (Byte × Mnemonic × Format) :=
  [(0x01, .mov, .a2), (0x02, .add, .a2), (0x03, .subb, .a2), (0x04, .anl, .a2), (0x05, .orl, .a2),
   (0x06, .inc, .a1), (0x07, .dec, .a1), (0x08, .rl, .a1), (0x09, .rr, .a1), (0x0A, .da, .a1),
   (0x0B, .org, .org), (0x0C, .mul, .a0)] ++
  [(0x10, .setb, .bit), (0x11, .clr, .bit), (0x12, .cpl, .bit)] ++
  [(0x20, .jz, .br), (0x21, .jnz, .br), (0x22, .jc, .br), (0x23, .jnc, .br),
   (0x24, .djnz, .dj), (0x25, .cjne, .cj), (0x26, .jb, .bb), (0x27, .jnb, .bb)]

/-- The legal (M1, M2) pairs of a format (R83). Format BB is not checked (R88): no pair list. -/
def Format.legalPairs : Format → List (Mode × Mode)
  | .a2 | .cj =>
    [(.direct, .direct), (.direct, .indirect), (.direct, .immediate),
     (.indirect, .direct), (.indirect, .indirect), (.indirect, .immediate)]
  | .a1 => [(.direct, .none), (.indirect, .none)]
  | .a0 | .org | .br => [(.none, .none)]
  | .bit => [(.direct, .none)]
  | .dj => [(.direct, .none), (.indirect, .none), (.none, .none)]
  | .bb => []

/-- The formats whose F1 is used (R83); DJ uses it unless M1 = NONE. -/
def Format.usesF1 (f : Format) (m1 : Mode) : Bool :=
  match f with
  | .a2 | .a1 | .bit | .cj => true
  | .dj => m1 != .none
  | .a0 | .org | .br | .bb => false

/-- The formats whose F2 is used (R83). -/
def Format.usesF2 : Format → Bool
  | .a2 | .cj => true
  | .a1 | .a0 | .org | .bit | .br | .dj | .bb => false

/-- The formats whose X16 is used (R83). -/
def Format.usesX16 : Format → Bool
  | .org | .br | .dj | .cj => true
  | .a2 | .a1 | .a0 | .bit | .bb => false

/-- The format of an opcode value, if it is assigned (R84, R85). -/
def formatOf? (op : Byte) : Option Format :=
  (opcodeTable.find? (fun row => row.1 == op)).map (fun row => row.2.2)

/-- Check 1 (R85, R88 step 1): the opcode value is assigned. -/
def Command.opAssigned (c : Command) : Bool := (formatOf? c.op).isSome

/-- R88 step 2: the command is `jb` or `jnb`, whose other fields are not checked. -/
def Command.isBB (c : Command) : Bool := formatOf? c.op == some .bb

/-- Check 2 (R83, R86): the mode pair is one of the legal pairs of the opcode's format. -/
def Command.pairLegal (c : Command) : Bool :=
  match formatOf? c.op with
  | some f => f.legalPairs.contains (c.m1, c.m2)
  | none => false

/-- Check 3 (R86): RSV = 0000. -/
def Command.rsvZero (c : Command) : Bool := c.rsv == 0

/-- The command is one of R84's, in a form R83 allows: its own rule says what the core does (R88 steps 2 and 4). -/
def Command.wellFormed (c : Command) : Bool := c.isBB || (c.opAssigned && c.pairLegal && c.rsvZero)

/-- Two commands of one format that differ only in fields the format ignores (R83, R87). For format BB every field but
OP is ignored (R228, R229). -/
def Command.agreeOnUsed (f : Format) (c c' : Command) : Prop :=
  c.op = c'.op ∧
  (f ≠ .bb →
    c.m1 = c'.m1 ∧ c.m2 = c'.m2 ∧ c.rsv = c'.rsv ∧
    (f.usesF1 c.m1 = true → c.f1 = c'.f1) ∧ (f.usesF2 = true → c.f2 = c'.f2) ∧
    (f.usesX16 = true → c.x16 = c'.x16))

end Sys2Proof
end

