-- ==== Sys2Proof/Safety.lean ====
section
/-! DEFINITION. What counts as a safe run, and the terms the statements use: the invariant of the machine, the reads a
command makes, the states it can leave, and the tables of R126 and R261 as they stand in the spec. -/

namespace Sys2Proof.Machine

/-! ### The invariant -/

/-- The invariant every step keeps. The four tables have their canonical form, and the status port and the
dispatcher agree (R260, R281, R283): INFO is 0 with OK, only a completed command makes a transfer, a transfer has a
target, and only a failure ends the run. -/
structure State.Inv (s : State) : Prop where
  memWf : s.mem.wf = true
  bitsWf : s.bits.wf = true
  progWf : s.prog.wf = true
  labelsWf : s.labels.wf = true
  okInfo : s.status = .ok → s.info = 0
  xferOk : s.xfer = true → s.status = .ok
  xferTarget : s.xfer = true → s.target.isSome = true
  stoppedFailed : s.stopped = true → s.status ≠ .ok

/-! ### Named bytes -/

/-- The byte a destination operand names. -/
def State.dstValue (s : State) (d : Dst) : Byte := s.mem.read (s.dstAddr d)

/-- The accumulator A: the byte at ADDR_ACC (R23). -/
def State.acc (s : State) : Byte := s.mem.read s.cfg.addrAcc

/-- The second multiply register B: the byte at ADDR_B (R24). -/
def State.regB (s : State) : Byte := s.mem.read s.cfg.addrB

/-! ### The states a command can leave -/

/-- A command ended with OK and no transfer. -/
def State.completed (s : State) : State := s.report .ok 0 false

/-- A command ended with OK and a transfer to `t`. -/
def State.transferred (s : State) (t : Half) : State := (s.noted t).report .ok 0 true

/-- A command ended with a failure. -/
def State.raised (s : State) (st : Status) (info : Half) : State := s.report st info false

/-- How `branch(cond, X16)` ends from `s` (R220): no transfer when the condition is false; a transfer when the label
resolves; JUMP_FAIL when it does not. -/
def State.branched (s : State) (cond : Bool) (label : Half) : State :=
  if cond then
    match s.labels.address? label with
    | some t => s.transferred t
    | none => s.raised .jumpFail label
  else s.completed

/-- The collaborators' answers have been used up in order, none or some of them (`State.answers`). -/
def State.onlyUsesAnswers (s t : State) : Prop := ∃ n, t.answers = s.answers.drop n

/-- Everything but PSW, data memory, bit memory, the dispatcher's target and the status port is the same, but that the
collaborators' answers may have been used up. -/
def State.sameElsewhere (s t : State) : Prop :=
  t.cfg = s.cfg ∧ t.pc = s.pc ∧ t.entry = s.entry ∧ t.prog = s.prog ∧ t.labels = s.labels ∧ t.stopped = s.stopped ∧
    s.onlyUsesAnswers t

/-! ### Flags, as a command's own rule gives them -/

/-- The four flags of `add` on the bytes x and y (R142). -/
def addFlags (x y : Byte) : Psw where
  cy := decide (x.toNat + y.toNat > 255)
  ac := decide (x.toNat % 16 + y.toNat % 16 ≥ 16)
  p := parityEven (x + y)
  ov := (x + y).getLsbD 7

/-- The four flags of `subb` on x and the subtrahend y after the carry-in step (R143). -/
def subbFlags (rule : SubCyRule) (x y : Byte) : Psw where
  cy := match rule with
    | .borrow => decide (x.toNat < y.toNat)
    | .literalOr => y != 0
  ac := decide (x.toNat % 16 + y.toNat % 16 ≥ 16)
  p := parityEven (x - y)
  ov := (x - y).getLsbD 7

/-- The subtrahend of `subb` after the carry-in step (R143): the source, plus one within a byte when CY is set. -/
def State.subtrahend (s : State) (v : Src) : Byte := if s.psw.cy then s.srcValue v + 1 else s.srcValue v

/-- PSW after a logic command with result r: P and OV (R145, R146). -/
def logicFlagsOf (r : Byte) (psw : Psw) : Psw := { psw with p := parityEven r, ov := r.getLsbD 7 }

/-! ### Encodings, as a command's own rule gives them -/

/-- Every word with this opcode, RSV = 0000 and the modes and fields of a destination and a source is the command;
X16 is ignored (format A2, R83). -/
def DecodesTwoOperand (op : Byte) (f : Dst → Src → Instr) : Prop :=
  ∀ (d : Dst) (v : Src) (x16 : Half), decode (cw (headWith op d.mode v.mode) d.field v.field x16) = .ok (f d v)

/-- The same for one operand; F2 and X16 are ignored (format A1, R83). -/
def DecodesOneOperand (op : Byte) (f : Dst → Instr) : Prop :=
  ∀ (d : Dst) (f2 : Byte) (x16 : Half), decode (cw (headWith op d.mode .none) d.field f2 x16) = .ok (f d)

/-- The same for a bit address; F2 and X16 are ignored (format BIT, R83). -/
def DecodesBit (op : Byte) (f : Byte → Instr) : Prop :=
  ∀ (b f2 : Byte) (x16 : Half), decode (cw (headWith op .direct .none) b f2 x16) = .ok (f b)

/-- The same for a label or an address alone; F1 and F2 are ignored (formats BR and ORG, R83). -/
def DecodesX16 (op : Byte) (f : Half → Instr) : Prop :=
  ∀ (f1 f2 : Byte) (x16 : Half), decode (cw (headWith op .none .none) f1 f2 x16) = .ok (f x16)

/-! ### Tables of the spec -/

/-- Which flags a command may write, in the order CY, AC, P, OV: the W and W0 marks of R126. -/
def flagsWritten (m : Mnemonic) : Bool × Bool × Bool × Bool :=
  match m with
  | .add | .subb => (true, true, true, true)
  | .anl | .orl => (false, false, true, true)
  | .mul => (true, false, false, true)
  | .cjne => (true, false, false, false)
  | .mov | .inc | .dec | .rl | .rr | .da | .org | .setb | .clr | .cpl
  | .jz | .jnz | .jc | .jnc | .djnz | .jb | .jnb => (false, false, false, false)

/-- The failures a command can return (R261). -/
def possibleFailures (m : Mnemonic) : List Status :=
  match m with
  | .mov | .add | .subb | .anl | .orl | .inc | .dec | .rl | .rr | .mul => [.memReadFail, .memWriteFail]
  | .da => [.memReadFail, .valueRange, .memWriteFail]
  | .org => [.pcWriteFail]
  | .setb | .clr => [.bitWriteFail]
  | .cpl => [.bitReadFail, .bitWriteFail]
  | .jz | .jnz => [.memReadFail, .jumpFail]
  | .jc | .jnc => [.jumpFail]
  | .djnz => [.memReadFail, .memWriteFail, .jumpFail]
  | .cjne => [.memReadFail, .jumpFail]
  | .jb | .jnb => [.notImplemented]

/-- The commands a failure of which can leave an effect besides the status port (R263). -/
def leavesPartialEffects (m : Mnemonic) : Bool :=
  match m with
  | .add | .subb | .anl | .orl | .mul | .djnz | .cjne => true
  | .mov | .inc | .dec | .rl | .rr | .da | .org | .setb | .clr | .cpl
  | .jz | .jnz | .jc | .jnc | .jb | .jnb => false

end Sys2Proof.Machine
end

