-- ==== Sys2Proof/Certificates/Slice0/Obligations.lean ====
section
/-! DEFINITION. The statements for the provers, in the order of OBLIGATIONS.json: encoding, dispatcher, the machine's
state, the Flag Unit, each command's rule, the rules about every command, and the frames. -/

open Sys2Proof Sys2Proof.Machine

/-- Words written out in the spec decode to the commands they stand for. The command words of R90's table, and one
of each remaining format, decode to the instruction the spec writes beside them. -/
def Obligations.SampleWordsDecode : Prop :=
  decode 0x0270E0050000 = .ok (.addDirImm 0xE0 0x05) ∧
  decode 0x068000000000 = .ok (.incInd 0x00) ∧
  decode 0x0C0000000000 = .ok .mul ∧
  decode 0x0B0000000100 = .ok (.org 0x0100) ∧
  decode 0x104007000000 = .ok (.setb 0x07) ∧
  decode 0x200000000001 = .ok (.jz 0x0001) ∧
  decode 0x244030000001 = .ok (.djnzDir 0x30 0x0001) ∧
  decode 0x240000000001 = .ok (.djnzAcc 0x0001) ∧
  decode 0x2570E0100001 = .ok (.cjneDirImm 0xE0 0x10 0x0001) ∧
  decode 0x264007000001 = .ok .jb ∧
  decode 0x01A001000000 = .ok (.movIndInd 0x01 0x00) ∧
  decode 0x049000310000 = .ok (.anlIndDir 0x00 0x31)

/-- Decoding an encoded instruction gives it back, and the encoded word is legal. For every instruction, with every
value of its operands: its command word is one that R83, R84 and R86 call legal, and the decoder reads that word as
the instruction. -/
def Obligations.DecodeEncodeAgree : Prop :=
  ∀ i : Instr, (Command.ofWord (encode i)).wellFormed = true ∧ decode (encode i) = .ok i

/-- What the core does with any command word: the decode order. For every word and state: an unassigned OP (exactly
the values R85 lists) raises UNKNOWN_OPCODE with INFO = zext_16(OP); else jb and jnb raise NOT_IMPLEMENTED; else an
illegal mode pair or a non-zero RSV raises ILLEGAL_OPERAND with INFO = CW[47:32]; each of these changes nothing but
the status port; else the word decodes to an instruction and the core executes it. -/
def Obligations.CommandWordCheckOrder : Prop :=
  ∀ (w : CW) (s : State),
    ((Command.ofWord w).opAssigned = false ↔
      (Command.ofWord w).op = 0x00 ∨
      (0x0D ≤ (Command.ofWord w).op ∧ (Command.ofWord w).op ≤ 0x0F) ∨
      (0x13 ≤ (Command.ofWord w).op ∧ (Command.ofWord w).op ≤ 0x1F) ∨
      0x28 ≤ (Command.ofWord w).op) ∧
    ((Command.ofWord w).opAssigned = false →
      present w s = .next (s.raised .unknownOpcode (zext16 (Command.ofWord w).op))) ∧
    ((Command.ofWord w).opAssigned = true → (Command.ofWord w).isBB = true →
      present w s = .next (s.raised .notImplemented (zext16 (Command.ofWord w).op))) ∧
    ((Command.ofWord w).opAssigned = true → (Command.ofWord w).isBB = false →
      ((Command.ofWord w).pairLegal = false ∨ (Command.ofWord w).rsvZero = false) →
      present w s = .next (s.raised .illegalOperand (headOf w))) ∧
    ((Command.ofWord w).opAssigned = true → (Command.ofWord w).isBB = false →
      (Command.ofWord w).pairLegal = true → (Command.ofWord w).rsvZero = true →
      ∃ i, decode w = .ok i ∧ present w s = exec i s)

/-- Words that differ only in ignored fields execute identically. For every format of R83 and any two words of that
format that agree on OP, on the modes, on RSV and on the fields the format uses (for jb and jnb: on OP alone), the
core does the same with both in every state. -/
def Obligations.UnusedFieldsHaveNoEffect : Prop :=
  ∀ (f : Format) (w w' : CW) (s : State),
    formatOf? (Command.ofWord w).op = some f →
    Command.agreeOnUsed f (Command.ofWord w) (Command.ofWord w') →
    present w s = present w' s

/-- A command word carried as six bytes is big-endian, and any six bytes are a word. There are six bytes and for every
k < 6 the k-th is CW[47-8k:40-8k]; reading them back gives the word and leaves the bytes after it; any six bytes read
as a word whose bytes they are, and leave the bytes after them; fewer than six bytes are refused by name. -/
def Obligations.CommandWordBytesAreBigEndian : Prop :=
  (∀ w : CW, (wordBytes w).length = 6 ∧
    ∀ k : Nat, k < 6 → (wordBytes w)[k]? = some (w.extractLsb' (40 - 8 * k) 8)) ∧
  (∀ (w : CW) (rest : List Byte), wordOfBytes? (wordBytes w ++ rest) = some (w, rest)) ∧
  (∀ (b0 b1 b2 b3 b4 b5 : Byte) (rest : List Byte), ∃ w : CW,
    wordOfBytes? (b0 :: b1 :: b2 :: b3 :: b4 :: b5 :: rest) = some (w, rest) ∧
    wordBytes w = [b0, b1, b2, b3, b4, b5]) ∧
  (∀ bytes : List Byte, bytes.length < 6 → decodeBytes bytes = .error .truncated) ∧
  (∀ (i : Instr) (rest : List Byte), decodeBytes (wordBytes (encode i) ++ rest) = .ok (i, rest))

/-- A step runs the decoded command. When the run has not ended and PROG(PC) holds a word that decodes to i, step
clears the dispatcher's target, executes i and then advances: step is advance of what exec gives, and exec always gives
a next state. That holds for a failing command too: its step is a next state in which the run has ended, and FAULT is
the step after it, where R281 ends the run at once; that extra step is the model's choice (notes/assumptions/7.md). -/
def Obligations.StepRunsDecodedCommand : Prop :=
  ∀ (s : State) (w : CW) (i : Instr),
    s.stopped = false → s.prog.word? s.pc = some w → decode w = .ok i →
    ∃ t, exec i { s with target := none } = .next t ∧ step s = .next t.advance

/-- How the program counter moves after a command. When the run has not ended: without a word at PC the run halts
there; with one, the core is presented the word and its status decides. A failure ends the run in FAULT(STATUS, INFO,
PC) with PC unchanged; a control transfer moves PC to the target; otherwise PC becomes PC + 1 modulo 65536. That a
failing command's step is a next state and FAULT is the step after it is the model's choice (notes/assumptions/7.md),
and so is the reference dispatcher as the machine that steps (notes/assumptions/15.md). -/
def Obligations.DispatcherAdvancesByStatus : Prop :=
  ∀ s : State, s.stopped = false →
    (s.prog.word? s.pc = none → step s = .fault (.halt s.pc)) ∧
    (∀ w, s.prog.word? s.pc = some w →
      ∃ t, present w { s with target := none } = .next t ∧ t.pc = s.pc ∧
        (t.status ≠ .ok →
          step s = .next { t with stopped := true } ∧
          step { t with stopped := true } = .fault (.failed t.status t.info s.pc)) ∧
        (t.status = .ok → t.xfer = true →
          ∃ a, t.target = some a ∧ step s = .next { t with pc := a }) ∧
        (t.status = .ok → t.xfer = false →
          step s = .next { t with pc := BitVec.ofNat 16 ((s.pc.toNat + 1) % 65536) }))

/-- Exactly when a run has ended. step has no next state exactly when an earlier command of the run failed, and then it
is FAULT(STATUS, INFO, PC), or when PC holds no command, and then it is HALT(PC). It never refuses. R283 ends the run
at the failing command itself; that the model's run ends one step later is its own choice (notes/assumptions/7.md). -/
def Obligations.RunEndsInHaltOrFault : Prop :=
  ∀ s : State,
    (s.stopped = true → step s = .fault (.failed s.status s.info s.pc)) ∧
    (s.stopped = false → s.prog.word? s.pc = none → step s = .fault (.halt s.pc)) ∧
    (s.stopped = false → (s.prog.word? s.pc).isSome = true →
      ∃ t, step s = .next t ∧ (t.stopped = true ↔ t.status ≠ .ok))

/-- How the reference dispatcher answers the core's requests. Byte and bit reads of served addresses are answered from
data and bit memory. A write request of a served address that is not always refused stores its byte or bit when the
collaborators' next answer is not a failure (or none is left), and fails with MEM_WRITE_FAIL or BIT_WRITE_FAIL and
stores nothing when it is; either way it uses that answer. PcSet notes the target, or fails with PC_WRITE_FAIL, in the
same way when no address is always refused. Jump succeeds with target LABELS(l) when it is defined and fails with
JUMP_FAIL when not. An address that MEM_VALID or BIT_VALID excludes fails. That the collaborators' choices are a list
of answers is the model's choice (notes/assumptions/5.md); R282's dispatcher fails no PcSet. -/
def Obligations.PortRequestsAreAnswered : Prop :=
  ∀ s : State,
    (∀ a, s.cfg.memUnserved.contains a = false → (memRead a).run s = .ok (s.mem.read a) s) ∧
    (∀ a, s.cfg.memUnserved.contains a = true →
      (memRead a).run s = .error ⟨.memReadFail, zext16 a⟩ s ∧
      ∀ v, ∃ q, (memWrite a v).run s = .error ⟨.memWriteFail, zext16 a⟩ { s with answers := q }) ∧
    (∀ a v, s.cfg.memUnserved.contains a = false → s.cfg.memWriteRefused.contains a = false →
      (s.answers.head? ≠ some false →
        (memWrite a v).run s = .ok () { s with answers := s.answers.tail, mem := s.mem.write a v }) ∧
      (s.answers.head? = some false →
        (memWrite a v).run s = .error ⟨.memWriteFail, zext16 a⟩ { s with answers := s.answers.tail })) ∧
    (∀ b, s.cfg.bitUnserved.contains b = false → (bitRead b).run s = .ok (s.bits.read b) s) ∧
    (∀ b, s.cfg.bitUnserved.contains b = true →
      (bitRead b).run s = .error ⟨.bitReadFail, zext16 b⟩ s ∧
      ∀ x, ∃ q, (bitWrite b x).run s = .error ⟨.bitWriteFail, zext16 b⟩ { s with answers := q }) ∧
    (∀ b x, s.cfg.bitUnserved.contains b = false → s.cfg.bitWriteRefused.contains b = false →
      (s.answers.head? ≠ some false →
        (bitWrite b x).run s = .ok () { s with answers := s.answers.tail, bits := s.bits.write b x }) ∧
      (s.answers.head? = some false →
        (bitWrite b x).run s = .error ⟨.bitWriteFail, zext16 b⟩ { s with answers := s.answers.tail })) ∧
    (∀ l t, s.labels.address? l = some t → (jump l).run s = .ok () { s with target := some t }) ∧
    (∀ l, s.labels.address? l = none → (jump l).run s = .error ⟨.jumpFail, l⟩ s) ∧
    (∀ t, s.cfg.pcRefused = [] →
      (s.answers.head? ≠ some false →
        (pcSet t).run s = .ok () { s with answers := s.answers.tail, target := some t }) ∧
      (s.answers.head? = some false →
        (pcSet t).run s = .error ⟨.pcWriteFail, t⟩ { s with answers := s.answers.tail }))

/-- What a launch leaves. At launch PC = ENTRY, and data memory, bit memory, PSW, PROG, LABELS and ENTRY hold the
values the platform chose, whatever answers to write requests the collaborators chose. -/
def Obligations.LaunchState : Prop :=
  ∀ (c : Config) (psw : Psw) (m : Memory) (b : BitMemory) (g : Program) (l : Labels) (e : Half) (n : List Bool),
    (State.launch c psw m b g l e n).pc = e ∧ (State.launch c psw m b g l e n).entry = e ∧
    (State.launch c psw m b g l e n).psw = psw ∧ (State.launch c psw m b g l e n).mem = m ∧
    (State.launch c psw m b g l e n).bits = b ∧ (State.launch c psw m b g l e n).prog = g ∧
    (State.launch c psw m b g l e n).labels = l ∧ (State.launch c psw m b g l e n).cfg = c

/-- The reset state meets the invariant. State.reset satisfies State.Inv. Its values are the model's choice
(notes/assumptions/1.md, 2.md, 4.md and 5.md): the spec gives no reset value. -/
def Obligations.ResetSatisfiesInvariant : Prop :=
  State.reset.Inv

/-- Every step keeps the invariant. From every state that meets State.Inv, a step that gives a next state gives one
that meets it: the memories and tables stay in canonical form, INFO is 0 with OK, only a completed command has XFER = 1
and it has a target, and only a failure ends the run. The canonical form of the memories and tables
(notes/assumptions/2.md) and a run that ends one step after the failing command (notes/assumptions/7.md) are the
model's choice, no rule of the spec. -/
def Obligations.StepKeepsInvariant : Prop :=
  ∀ s t : State, s.Inv → step s = .next t → t.Inv

/-- The host's accesses and loading a word keep the invariant. Every host action between commands, and placing a word
where step fetches next, keep State.Inv; and a step on a state so loaded runs exactly the word placed. That a word is
loaded from outside and so run (notes/assumptions/9.md) and the canonical form the invariant asks for
(notes/assumptions/2.md) are the model's choice, no rule of the spec. -/
def Obligations.HostActionsAndLoadingKeepInvariant : Prop :=
  ∀ s : State, s.Inv →
    (∀ h, (s.hostAct h).Inv) ∧
    (∀ n w, (s.withFetchWord n w).Inv) ∧
    (∀ n w t, present (BitVec.ofNat 48 (w % 2 ^ n)) { s.withFetchWord n w with target := none } = .next t →
      step (s.withFetchWord n w) = .next t.advance)

/-- Reads have no side effects and a read sees the latest write. A byte read changes no state and repeats its
answer; after a completed write, a read of that address gives the written byte and a read of any other address
answers as before. The same for bits. -/
def Obligations.ReadAfterWrite : Prop :=
  (∀ (s t : State) (a x : Byte), (memRead a).run s = .ok x t → t = s ∧ (memRead a).run t = .ok x s) ∧
  (∀ (s t : State) (a v : Byte), (memWrite a v).run s = .ok () t →
    (memRead a).run t = .ok v t ∧
    (∀ b x, b ≠ a → (memRead b).run s = .ok x s → (memRead b).run t = .ok x t) ∧
    (∀ b e, b ≠ a → (memRead b).run s = .error e s → (memRead b).run t = .error e t)) ∧
  (∀ (s t : State) (b : Byte) (x : Bool), (bitRead b).run s = .ok x t → t = s ∧ (bitRead b).run t = .ok x s) ∧
  (∀ (s t : State) (b : Byte) (x : Bool), (bitWrite b x).run s = .ok () t →
    (bitRead b).run t = .ok x t ∧
    (∀ c y, c ≠ b → (bitRead c).run s = .ok y s → (bitRead c).run t = .ok y t) ∧
    (∀ c e, c ≠ b → (bitRead c).run s = .error e s → (bitRead c).run t = .error e t))

/-- Two memories in canonical form that read alike are the same data. The canonical form (a choice of the model,
notes/assumptions/2.md) is one per contents: data memories in it that give the same byte at all 256 addresses are
equal, and bit memories that give the same bit at all 256 bit addresses are equal. -/
def Obligations.MemoriesThatReadAlikeAreEqual : Prop :=
  (∀ m n : Memory, m.wf = true → n.wf = true → (∀ a, m.read a = n.read a) → m = n) ∧
  (∀ m n : BitMemory, m.wf = true → n.wf = true → (∀ b, m.read b = n.read b) → m = n)

/-- What a destination and a source operand resolve to. A DIRECT destination is its field; an INDIRECT one is the
byte at its field, or MEM_READ_FAIL of the field where that byte is not served; an IMMEDIATE or absent operand 1 is
no destination. A DIRECT source is the byte at its field, an INDIRECT one the byte at the address held at its field,
an IMMEDIATE one its field itself; a read of an address not served fails with MEM_READ_FAIL of that address. The
state does not change. -/
def Obligations.OperandResolution : Prop :=
  (∀ (a : Byte) (s : State), (resolveDst (.direct a)).run s = .ok a s) ∧
  (∀ (p : Byte) (s : State), s.memServes p = true → (resolveDst (.indirect p)).run s = .ok (s.mem.read p) s) ∧
  (∀ (p : Byte) (s : State), s.memServes p = false →
    (resolveDst (.indirect p)).run s = .error ⟨.memReadFail, zext16 p⟩ s) ∧
  (∀ f : Byte, Dst.ofField? .direct f = some (.direct f) ∧ Dst.ofField? .indirect f = some (.indirect f) ∧
    Dst.ofField? .immediate f = none ∧ Dst.ofField? .none f = none) ∧
  (∀ (x : Byte) (s : State), (resolveSrc (.immediate x)).run s = .ok x s) ∧
  (∀ (a : Byte) (s : State), s.memServes a = true → (resolveSrc (.direct a)).run s = .ok (s.mem.read a) s) ∧
  (∀ (a : Byte) (s : State), s.memServes a = false →
    (resolveSrc (.direct a)).run s = .error ⟨.memReadFail, zext16 a⟩ s) ∧
  (∀ (p : Byte) (s : State), s.memServes p = true → s.memServes (s.mem.read p) = true →
    (resolveSrc (.indirect p)).run s = .ok (s.mem.read (s.mem.read p)) s) ∧
  (∀ (p : Byte) (s : State), s.memServes p = true → s.memServes (s.mem.read p) = false →
    (resolveSrc (.indirect p)).run s = .error ⟨.memReadFail, zext16 (s.mem.read p)⟩ s) ∧
  (∀ (p : Byte) (s : State), s.memServes p = false →
    (resolveSrc (.indirect p)).run s = .error ⟨.memReadFail, zext16 p⟩ s)

/-- The result of a compute. compute returns (a + b) mod 256 in ADD mode and (a - b) mod 256 in SUB mode, whatever
the enables and SUB_CY_RULE are. -/
def Obligations.ComputeResultWraps : Prop :=
  ∀ (a b : Byte) (en : FlagEnables) (s : State),
    (∃ t, (compute a b .add en).run s = .ok (BitVec.ofNat 8 ((a.toNat + b.toNat) % 256)) t) ∧
    (∃ t, (compute a b .sub en).run s = .ok (BitVec.ofNat 8 ((a.toNat + 256 - b.toNat) % 256)) t)

/-- AC, P and OV of a compute, and what a compute leaves alone. A compute never fails and changes nothing but PSW.
An enabled AC is the carry of the low nibbles of a and b before negation, an enabled P is 1 exactly when the result
has an even number of one-bits, an enabled OV is the result's bit 7; a disabled flag is unchanged. -/
def Obligations.ComputeWritesEnabledFlags : Prop :=
  ∀ (a b : Byte) (m : ComputeMode) (en : FlagEnables) (s : State),
    ∃ (r : Byte) (q : Psw), (compute a b m en).run s = .ok r { s with psw := q } ∧
      (en.cy = false → q.cy = s.psw.cy) ∧
      q.ac = (if en.ac then decide ((a.toNat &&& 0xF) + (b.toNat &&& 0xF) ≥ 16) else s.psw.ac) ∧
      q.p = (if en.p then
        !(r.getLsbD 0 ^^ r.getLsbD 1 ^^ r.getLsbD 2 ^^ r.getLsbD 3 ^^
          r.getLsbD 4 ^^ r.getLsbD 5 ^^ r.getLsbD 6 ^^ r.getLsbD 7) else s.psw.p) ∧
      q.ov = (if en.ov then r.getLsbD 7 else s.psw.ov)

/-- CY of a compute in each mode and under each SUB_CY_RULE. With CY enabled: in ADD mode CY is 1 exactly when a + b
> 255; in SUB mode it is 1 exactly when a < b under BORROW and exactly when b is not 0 under LITERAL_OR. With CY
disabled it is untouched. -/
def Obligations.ComputeCarryRules : Prop :=
  ∀ (a b : Byte) (en : FlagEnables) (s : State),
    (en.cy = true → ∃ r t, (compute a b .add en).run s = .ok r t ∧
      (t.psw.cy = true ↔ a.toNat + b.toNat > 255)) ∧
    (en.cy = true → s.cfg.subCyRule = .borrow → ∃ r t, (compute a b .sub en).run s = .ok r t ∧
      (t.psw.cy = true ↔ a.toNat < b.toNat)) ∧
    (en.cy = true → s.cfg.subCyRule = .literalOr → ∃ r t, (compute a b .sub en).run s = .ok r t ∧
      (t.psw.cy = true ↔ b ≠ 0)) ∧
    (en.cy = false → ∀ m, ∃ r t, (compute a b m en).run s = .ok r t ∧ t.psw.cy = s.psw.cy)

/-- mov writes the source value to the destination. For every destination and source: mov stores the source's value at
the effective address, writes no flag and does not read the destination's old value; a write refused gives
MEM_WRITE_FAIL(EA), the first read not served gives MEM_READ_FAIL of its address; nothing else changes. Holds for the
six constructors movDirDir, movDirInd, movDirImm, movIndDir, movIndInd, movIndImm. Of the collaborators' answers that
are left (the model's own field, notes/assumptions/5.md) it says nothing. -/
def Obligations.MovMovesTheSource : Prop :=
  DecodesTwoOperand 0x01 .mov ∧
  ∀ (d : Dst) (v : Src) (s : State),
    (s.firstUnserved (s.dstReads d ++ s.srcReads v) = none → s.memAccepts (s.dstAddr d) = true →
      ∃ q, exec (.mov d v) s = .next (State.completed
        { s with answers := q, mem := s.mem.write (s.dstAddr d) (s.srcValue v) })) ∧
    (s.firstUnserved (s.dstReads d ++ s.srcReads v) = none → s.memAccepts (s.dstAddr d) = false →
      ∃ q, exec (.mov d v) s = .next (State.raised
        { s with answers := q } .memWriteFail (zext16 (s.dstAddr d)))) ∧
    (∀ a, s.firstUnserved (s.dstReads d ++ s.srcReads v) = some a →
      exec (.mov d v) s = .next (s.raised .memReadFail (zext16 a)))

/-- add writes the sum and all four flags. For every destination and source: add stores (d + v) mod 256, CY is the
carry out, AC the nibble carry, P even parity and OV the sign bit of the result; the incoming CY is not added; when the
result write is refused the flags are already written and stay; a failing read changes nothing. Holds for the six
constructors addDirDir, addDirInd, addDirImm, addIndDir, addIndInd, addIndImm. Of the collaborators' answers that are
left (the model's own field, notes/assumptions/5.md) it says nothing. -/
def Obligations.AddStoresSumAndFlags : Prop :=
  DecodesTwoOperand 0x02 .add ∧
  ∀ (d : Dst) (v : Src) (s : State),
    (s.firstUnserved (s.dstReads d ++ s.srcReads v ++ [s.dstAddr d]) = none → s.memAccepts (s.dstAddr d) = true →
      ∃ q, exec (.add d v) s = .next (State.completed
        { s with
          answers := q
          psw := addFlags (s.dstValue d) (s.srcValue v)
          mem := s.mem.write (s.dstAddr d) (s.dstValue d + s.srcValue v) })) ∧
    (s.firstUnserved (s.dstReads d ++ s.srcReads v ++ [s.dstAddr d]) = none → s.memAccepts (s.dstAddr d) = false →
      ∃ q, exec (.add d v) s = .next (State.raised
        { s with answers := q, psw := addFlags (s.dstValue d) (s.srcValue v) } .memWriteFail (zext16 (s.dstAddr d)))) ∧
    (∀ a, s.firstUnserved (s.dstReads d ++ s.srcReads v ++ [s.dstAddr d]) = some a →
      exec (.add d v) s = .next (s.raised .memReadFail (zext16 a)))

/-- subb subtracts the source and the carry and writes all four flags. For every destination and source: with v' the
source, plus one within a byte when CY is set on entry, subb stores (d - v') mod 256; CY follows SUB_CY_RULE, AC is the
nibble sum of d and v', P and OV those of the result; when the write is refused the flags stay; a failing read leaves
CY and everything else unchanged. Holds for the six constructors subbDirDir, subbDirInd, subbDirImm, subbIndDir,
subbIndInd, subbIndImm. Of the collaborators' answers that are left (the model's own field, notes/assumptions/5.md) it
says nothing. -/
def Obligations.SubbStoresDifferenceAndFlags : Prop :=
  DecodesTwoOperand 0x03 .subb ∧
  ∀ (d : Dst) (v : Src) (s : State),
    (s.firstUnserved (s.dstReads d ++ s.srcReads v ++ [s.dstAddr d]) = none → s.memAccepts (s.dstAddr d) = true →
      ∃ q, exec (.subb d v) s = .next (State.completed
        { s with
          answers := q
          psw := subbFlags s.cfg.subCyRule (s.dstValue d) (s.subtrahend v)
          mem := s.mem.write (s.dstAddr d) (s.dstValue d - s.subtrahend v) })) ∧
    (s.firstUnserved (s.dstReads d ++ s.srcReads v ++ [s.dstAddr d]) = none → s.memAccepts (s.dstAddr d) = false →
      ∃ q, exec (.subb d v) s = .next (State.raised
        { s with answers := q, psw := subbFlags s.cfg.subCyRule (s.dstValue d) (s.subtrahend v) }
        .memWriteFail (zext16 (s.dstAddr d)))) ∧
    (∀ a, s.firstUnserved (s.dstReads d ++ s.srcReads v ++ [s.dstAddr d]) = some a →
      exec (.subb d v) s = .next (s.raised .memReadFail (zext16 a)))

/-- subb with CY = 1 is subb with CY = 0 and the source plus one. For every destination and any two readable sources
whose values are b and (b + 1) mod 256: subb of the first with CY = 1 on entry and subb of the second with CY = 0 on
entry give the same state: the same result and the same four flags. CY set on entry never reaches the compute. -/
def Obligations.SubbCarryInLaw : Prop :=
  ∀ (d : Dst) (v v' : Src) (s : State),
    s.firstUnserved (s.dstReads d ++ s.srcReads v ++ s.srcReads v' ++ [s.dstAddr d]) = none →
    s.srcValue v' = s.srcValue v + 1 →
    exec (.subb d v) { s with psw := { s.psw with cy := true } } =
      exec (.subb d v') { s with psw := { s.psw with cy := false } }

/-- anl writes the bitwise AND and P and OV. For every destination and source: anl stores d AND v, writes P and OV from
the result and leaves CY and AC; a refused write leaves P and OV written; a failing read changes nothing. Holds for the
six constructors anlDirDir, anlDirInd, anlDirImm, anlIndDir, anlIndInd, anlIndImm. Of the collaborators' answers that
are left (the model's own field, notes/assumptions/5.md) it says nothing. -/
def Obligations.AnlStoresAndWithFlags : Prop :=
  DecodesTwoOperand 0x04 .anl ∧
  ∀ (d : Dst) (v : Src) (s : State),
    (s.firstUnserved (s.dstReads d ++ s.srcReads v ++ [s.dstAddr d]) = none → s.memAccepts (s.dstAddr d) = true →
      ∃ q, exec (.anl d v) s = .next (State.completed
        { s with
          answers := q
          psw := logicFlagsOf (s.dstValue d &&& s.srcValue v) s.psw
          mem := s.mem.write (s.dstAddr d) (s.dstValue d &&& s.srcValue v) })) ∧
    (s.firstUnserved (s.dstReads d ++ s.srcReads v ++ [s.dstAddr d]) = none → s.memAccepts (s.dstAddr d) = false →
      ∃ q, exec (.anl d v) s = .next (State.raised
        { s with answers := q, psw := logicFlagsOf (s.dstValue d &&& s.srcValue v) s.psw }
        .memWriteFail (zext16 (s.dstAddr d)))) ∧
    (∀ a, s.firstUnserved (s.dstReads d ++ s.srcReads v ++ [s.dstAddr d]) = some a →
      exec (.anl d v) s = .next (s.raised .memReadFail (zext16 a)))

/-- orl writes the bitwise OR and P and OV. For every destination and source: orl stores d OR v, writes P and OV from
the result and leaves CY and AC; a refused write leaves P and OV written; a failing read changes nothing. Holds for the
six constructors orlDirDir, orlDirInd, orlDirImm, orlIndDir, orlIndInd, orlIndImm. Of the collaborators' answers that
are left (the model's own field, notes/assumptions/5.md) it says nothing. -/
def Obligations.OrlStoresOrWithFlags : Prop :=
  DecodesTwoOperand 0x05 .orl ∧
  ∀ (d : Dst) (v : Src) (s : State),
    (s.firstUnserved (s.dstReads d ++ s.srcReads v ++ [s.dstAddr d]) = none → s.memAccepts (s.dstAddr d) = true →
      ∃ q, exec (.orl d v) s = .next (State.completed
        { s with
          answers := q
          psw := logicFlagsOf (s.dstValue d ||| s.srcValue v) s.psw
          mem := s.mem.write (s.dstAddr d) (s.dstValue d ||| s.srcValue v) })) ∧
    (s.firstUnserved (s.dstReads d ++ s.srcReads v ++ [s.dstAddr d]) = none → s.memAccepts (s.dstAddr d) = false →
      ∃ q, exec (.orl d v) s = .next (State.raised
        { s with answers := q, psw := logicFlagsOf (s.dstValue d ||| s.srcValue v) s.psw }
        .memWriteFail (zext16 (s.dstAddr d)))) ∧
    (∀ a, s.firstUnserved (s.dstReads d ++ s.srcReads v ++ [s.dstAddr d]) = some a →
      exec (.orl d v) s = .next (s.raised .memReadFail (zext16 a)))

/-- inc adds one modulo 256 and writes no flag. For every operand: inc stores (d + 1) mod 256 at the effective address
and changes nothing else; a refused write or a failing read changes nothing but the status. Holds for the two
constructors incDir and incInd. Of the collaborators' answers that are left (the model's own field,
notes/assumptions/5.md) it says nothing. -/
def Obligations.IncAddsOneWithoutFlags : Prop :=
  DecodesOneOperand 0x06 .inc ∧
  ∀ (d : Dst) (s : State),
    (s.firstUnserved (s.dstReads d ++ [s.dstAddr d]) = none → s.memAccepts (s.dstAddr d) = true →
      ∃ q, exec (.inc d) s = .next (State.completed
        { s with
          answers := q
          mem := s.mem.write (s.dstAddr d)
            (BitVec.ofNat 8 (((s.dstValue d).toNat + 1) % 256)) })) ∧
    (s.firstUnserved (s.dstReads d ++ [s.dstAddr d]) = none → s.memAccepts (s.dstAddr d) = false →
      ∃ q, exec (.inc d) s = .next (State.raised { s with answers := q } .memWriteFail (zext16 (s.dstAddr d)))) ∧
    (∀ a, s.firstUnserved (s.dstReads d ++ [s.dstAddr d]) = some a →
      exec (.inc d) s = .next (s.raised .memReadFail (zext16 a)))

/-- dec subtracts one modulo 256 and writes no flag. For every operand: dec stores (d - 1) mod 256 at the effective
address and changes nothing else; a refused write or a failing read changes nothing but the status. Holds for the two
constructors decDir and decInd. Of the collaborators' answers that are left (the model's own field,
notes/assumptions/5.md) it says nothing. -/
def Obligations.DecSubtractsOneWithoutFlags : Prop :=
  DecodesOneOperand 0x07 .dec ∧
  ∀ (d : Dst) (s : State),
    (s.firstUnserved (s.dstReads d ++ [s.dstAddr d]) = none → s.memAccepts (s.dstAddr d) = true →
      ∃ q, exec (.dec d) s = .next (State.completed
        { s with
          answers := q
          mem := s.mem.write (s.dstAddr d)
            (BitVec.ofNat 8 (((s.dstValue d).toNat + 255) % 256)) })) ∧
    (s.firstUnserved (s.dstReads d ++ [s.dstAddr d]) = none → s.memAccepts (s.dstAddr d) = false →
      ∃ q, exec (.dec d) s = .next (State.raised { s with answers := q } .memWriteFail (zext16 (s.dstAddr d)))) ∧
    (∀ a, s.firstUnserved (s.dstReads d ++ [s.dstAddr d]) = some a →
      exec (.dec d) s = .next (s.raised .memReadFail (zext16 a)))

/-- rl writes the byte rotated left by one bit. For every operand: rl stores the operand byte rotated left, bit 7 into
bit 0, at ADDR_ACC under ROTATE_DEST = ACC and at the effective address under OPERAND; no flag changes. Holds for the
two constructors rlDir and rlInd. Of the collaborators' answers that are left (the model's own field,
notes/assumptions/5.md) it says nothing. -/
def Obligations.RlRotatesLeftIntoTarget : Prop :=
  DecodesOneOperand 0x08 .rl ∧
  ∀ (d : Dst) (s : State) (ta : Byte),
    ta = (match s.cfg.rotateDest with | .acc => s.cfg.addrAcc | .operand => s.dstAddr d) →
    (s.firstUnserved (s.dstReads d ++ [s.dstAddr d]) = none → s.memAccepts ta = true →
      ∃ q, exec (.rl d) s = .next (State.completed
        { s with
          answers := q
          mem := s.mem.write ta
            ((s.dstValue d).extractLsb' 0 7 ++ (s.dstValue d).extractLsb' 7 1) })) ∧
    (s.firstUnserved (s.dstReads d ++ [s.dstAddr d]) = none → s.memAccepts ta = false →
      ∃ q, exec (.rl d) s = .next (State.raised { s with answers := q } .memWriteFail (zext16 ta))) ∧
    (∀ a, s.firstUnserved (s.dstReads d ++ [s.dstAddr d]) = some a →
      exec (.rl d) s = .next (s.raised .memReadFail (zext16 a)))

/-- rr writes the byte rotated right by one bit. For every operand: rr stores the operand byte rotated right, bit 0
into bit 7, at ADDR_ACC under ROTATE_DEST = ACC and at the effective address under OPERAND; no flag changes. Holds for
the two constructors rrDir and rrInd. Of the collaborators' answers that are left (the model's own field,
notes/assumptions/5.md) it says nothing. -/
def Obligations.RrRotatesRightIntoTarget : Prop :=
  DecodesOneOperand 0x09 .rr ∧
  ∀ (d : Dst) (s : State) (ta : Byte),
    ta = (match s.cfg.rotateDest with | .acc => s.cfg.addrAcc | .operand => s.dstAddr d) →
    (s.firstUnserved (s.dstReads d ++ [s.dstAddr d]) = none → s.memAccepts ta = true →
      ∃ q, exec (.rr d) s = .next (State.completed
        { s with
          answers := q
          mem := s.mem.write ta
            ((s.dstValue d).extractLsb' 0 1 ++ (s.dstValue d).extractLsb' 1 7) })) ∧
    (s.firstUnserved (s.dstReads d ++ [s.dstAddr d]) = none → s.memAccepts ta = false →
      ∃ q, exec (.rr d) s = .next (State.raised { s with answers := q } .memWriteFail (zext16 ta))) ∧
    (∀ a, s.firstUnserved (s.dstReads d ++ [s.dstAddr d]) = some a →
      exec (.rr d) s = .next (s.raised .memReadFail (zext16 a)))

/-- When rl followed by rr restores the byte, and when it does not. If both complete and the operand names the same
address before and after the first: under OPERAND, or when the operand is A, the byte at that address is restored;
under ACC with an operand other than A the operand byte is unchanged and A is the operand byte rotated right, which
equals it only for 0x00 and 0xFF. R151 says "for any op under OPERAND"; an indirect operand whose pointer byte is
the byte rotated names another address the second time, so the statement has that premise. -/
def Obligations.RotateRoundTrip : Prop :=
  (∀ (d : Dst) (s t u : State),
    exec (.rl d) s = .next t → exec (.rr d) t = .next u → t.status = .ok → u.status = .ok →
    t.dstAddr d = s.dstAddr d →
    (s.cfg.rotateDest = .operand ∨ s.dstAddr d = s.cfg.addrAcc →
      u.dstValue d = s.dstValue d ∧ u.mem.read (s.dstAddr d) = s.dstValue d) ∧
    (s.cfg.rotateDest = .acc → s.dstAddr d ≠ s.cfg.addrAcc →
      u.mem.read (s.dstAddr d) = s.dstValue d ∧ u.acc = ror8 (s.dstValue d))) ∧
  (∀ x : Byte, ror8 x = x ↔ x = 0x00 ∨ x = 0xFF)

/-- da writes the last two decimal digits as BCD. For every operand: da stores 16 * ((d div 10) mod 10) + (d mod 10),
the low byte of the value whose hexadecimal digits are the decimal digits of d, and writes no flag; under DA_WIDE =
FAULT a value of 100 or more raises VALUE_RANGE(d) before any write, whether or not the write would be refused. Holds
for the two constructors daDir and daInd. Of the collaborators' answers that are left (the model's own field,
notes/assumptions/5.md) it says nothing. -/
def Obligations.DaConvertsToDecimalDigits : Prop :=
  DecodesOneOperand 0x0A .da ∧
  ∀ (d : Dst) (s : State) (r : Byte),
    r = BitVec.ofNat 8 (16 * (((s.dstValue d).toNat / 10) % 10) + (s.dstValue d).toNat % 10) →
    r = BitVec.ofNat 8 (256 * ((s.dstValue d).toNat / 100) + 16 * (((s.dstValue d).toNat / 10) % 10) +
      (s.dstValue d).toNat % 10) ∧
    (s.firstUnserved (s.dstReads d ++ [s.dstAddr d]) = none →
      (s.dstValue d).toNat < 100 ∨ s.cfg.daWide = .truncate → s.memAccepts (s.dstAddr d) = true →
      ∃ q, exec (.da d) s = .next (State.completed { s with answers := q, mem := s.mem.write (s.dstAddr d) r })) ∧
    (s.firstUnserved (s.dstReads d ++ [s.dstAddr d]) = none →
      (s.dstValue d).toNat < 100 ∨ s.cfg.daWide = .truncate → s.memAccepts (s.dstAddr d) = false →
      ∃ q, exec (.da d) s = .next (State.raised { s with answers := q } .memWriteFail (zext16 (s.dstAddr d)))) ∧
    (s.firstUnserved (s.dstReads d ++ [s.dstAddr d]) = none →
      (s.dstValue d).toNat ≥ 100 → s.cfg.daWide = .fault →
      exec (.da d) s = .next (s.raised .valueRange (zext16 (s.dstValue d)))) ∧
    (∀ a, s.firstUnserved (s.dstReads d ++ [s.dstAddr d]) = some a →
      exec (.da d) s = .next (s.raised .memReadFail (zext16 a)))

/-- org asks for its address, and the dispatcher goes there. For every address: org completes with XFER = 1 and that
target when the program-counter collaborator accepts it, and raises PC_WRITE_FAIL(X16) when not; no byte, bit or flag
changes. A step that runs an accepted org leaves PC at the address, not advanced again. XFER = 1 follows R260 and R281
against the general sentence of R140 (DEDUCED, notes/assumptions/6.md); the step is the reference dispatcher's
(notes/assumptions/15.md). Of the collaborators' answers that are left (the model's own field, notes/assumptions/5.md)
it says nothing. -/
def Obligations.OrgSetsProgramCounter : Prop :=
  DecodesX16 0x0B .org ∧
  ∀ (a : Half) (s : State),
    (s.pcAccepts a = true → ∃ q, exec (.org a) s = .next (State.transferred { s with answers := q } a)) ∧
    (s.pcAccepts a = false → ∃ q, exec (.org a) s = .next (State.raised { s with answers := q } .pcWriteFail a)) ∧
    (∀ w, s.pcAccepts a = true → s.stopped = false → s.prog.word? s.pc = some w → decode w = .ok (.org a) →
      ∃ q, step s = .next { State.transferred { s with answers := q } a with pc := a })

/-- mul writes the two bytes of the product of A and B, clears CY and sets OV from the high byte. In every state: with
p = A * B as numbers, CY becomes 0, OV becomes 1 exactly when p div 256 is not 0, AC and P are unchanged, then p mod
256 is stored at MUL_LO_ADDR and after it p div 256 at MUL_HI_ADDR. A refused low write leaves the flags; a refused
high write leaves the flags and the low byte; the two writes are two requests, and the collaborator may refuse the
second alone, also where both go to one address; a failing read of A, then of B, changes nothing. Of the collaborators'
answers that are left (the model's own field, notes/assumptions/5.md) it says nothing. -/
def Obligations.MulWritesProductBytes : Prop :=
  (∀ (f1 f2 : Byte) (x16 : Half), decode (cw 0x0C00 f1 f2 x16) = .ok .mul) ∧
  ∀ (s f : State) (p : Nat), p = s.acc.toNat * s.regB.toNat →
    f = { s with psw := { s.psw with cy := false, ov := decide (p / 256 ≠ 0) } } →
    (s.firstUnserved [s.cfg.addrAcc, s.cfg.addrB] = none →
      s.memAccepts s.cfg.mulLoAddr = true → s.answered.memAccepts s.cfg.mulHiAddr = true →
      ∃ q, exec .mul s = .next (State.completed { f with
        answers := q
        mem := (s.mem.write s.cfg.mulLoAddr (BitVec.ofNat 8 (p % 256))).write s.cfg.mulHiAddr
          (BitVec.ofNat 8 (p / 256)) })) ∧
    (s.firstUnserved [s.cfg.addrAcc, s.cfg.addrB] = none → s.memAccepts s.cfg.mulLoAddr = false →
      ∃ q, exec .mul s = .next (State.raised { f with answers := q } .memWriteFail (zext16 s.cfg.mulLoAddr))) ∧
    (s.firstUnserved [s.cfg.addrAcc, s.cfg.addrB] = none →
      s.memAccepts s.cfg.mulLoAddr = true → s.answered.memAccepts s.cfg.mulHiAddr = false →
      ∃ q, exec .mul s = .next (State.raised
        { f with answers := q, mem := s.mem.write s.cfg.mulLoAddr (BitVec.ofNat 8 (p % 256)) }
        .memWriteFail (zext16 s.cfg.mulHiAddr))) ∧
    (∀ a, s.firstUnserved [s.cfg.addrAcc, s.cfg.addrB] = some a →
      exec .mul s = .next (s.raised .memReadFail (zext16 a)))

/-- setb sets its bit. For every bit address: setb writes 1 to the bit and changes no byte and no flag, without reading
the bit; a refused write raises BIT_WRITE_FAIL and changes nothing. Of the collaborators' answers that are left (the
model's own field, notes/assumptions/5.md) it says nothing. -/
def Obligations.SetbSetsBit : Prop :=
  DecodesBit 0x10 .setb ∧
  ∀ (b : Byte) (s : State),
    (s.bitAccepts b = true →
      ∃ q, exec (.setb b) s = .next (State.completed { s with answers := q, bits := s.bits.write b true })) ∧
    (s.bitAccepts b = false →
      ∃ q, exec (.setb b) s = .next (State.raised { s with answers := q } .bitWriteFail (zext16 b)))

/-- clr clears its bit. For every bit address: clr writes 0 to the bit and changes no byte and no flag, without reading
the bit; a refused write raises BIT_WRITE_FAIL and changes nothing. Of the collaborators' answers that are left (the
model's own field, notes/assumptions/5.md) it says nothing. -/
def Obligations.ClrClearsBit : Prop :=
  DecodesBit 0x11 .clr ∧
  ∀ (b : Byte) (s : State),
    (s.bitAccepts b = true →
      ∃ q, exec (.clr b) s = .next (State.completed { s with answers := q, bits := s.bits.write b false })) ∧
    (s.bitAccepts b = false →
      ∃ q, exec (.clr b) s = .next (State.raised { s with answers := q } .bitWriteFail (zext16 b)))

/-- cpl complements its bit. For every bit address: cpl reads the bit and writes its complement, and changes no byte
and no flag; an address not served raises BIT_READ_FAIL, a refused write BIT_WRITE_FAIL, and neither changes anything.
Two completed cpl of one bit restore it. Of the collaborators' answers that are left (the model's own field,
notes/assumptions/5.md) it says nothing. -/
def Obligations.CplComplementsBit : Prop :=
  DecodesBit 0x12 .cpl ∧
  ∀ (b : Byte) (s : State),
    (s.bitServes b = true → s.bitAccepts b = true → ∃ q, exec (.cpl b) s =
      .next (State.completed { s with answers := q, bits := s.bits.write b (!s.bits.read b) })) ∧
    (s.bitServes b = true → s.bitAccepts b = false →
      ∃ q, exec (.cpl b) s = .next (State.raised { s with answers := q } .bitWriteFail (zext16 b))) ∧
    (s.bitServes b = false → exec (.cpl b) s = .next (s.raised .bitReadFail (zext16 b))) ∧
    (∀ t u, exec (.cpl b) s = .next t → exec (.cpl b) t = .next u → t.status = .ok → u.status = .ok →
      ∀ c, u.bits.read c = s.bits.read c)

/-- jz jumps exactly when A is zero. For every label: with A served and zero, jz completes with a transfer to the
label's address, or raises JUMP_FAIL when the label does not resolve; with A not zero it completes without a
transfer; with A not served it raises MEM_READ_FAIL(ADDR_ACC). Nothing else changes. -/
def Obligations.JzJumpsWhenAccumulatorZero : Prop :=
  DecodesX16 0x20 .jz ∧
  ∀ (l : Half) (s : State),
    (s.memServes s.cfg.addrAcc = true → s.acc = 0 → ∀ t, s.labels.address? l = some t →
      exec (.jz l) s = .next (s.transferred t)) ∧
    (s.memServes s.cfg.addrAcc = true → s.acc = 0 → s.labels.address? l = none →
      exec (.jz l) s = .next (s.raised .jumpFail l)) ∧
    (s.memServes s.cfg.addrAcc = true → s.acc ≠ 0 → exec (.jz l) s = .next s.completed) ∧
    (s.memServes s.cfg.addrAcc = false →
      exec (.jz l) s = .next (s.raised .memReadFail (zext16 s.cfg.addrAcc)))

/-- jnz jumps exactly when A is not zero. For every label: with A served and not zero, jnz completes with a transfer
to the label's address, or raises JUMP_FAIL when the label does not resolve; with A zero it completes without a
transfer; with A not served it raises MEM_READ_FAIL(ADDR_ACC). Nothing else changes. -/
def Obligations.JnzJumpsWhenAccumulatorNonzero : Prop :=
  DecodesX16 0x21 .jnz ∧
  ∀ (l : Half) (s : State),
    (s.memServes s.cfg.addrAcc = true → s.acc ≠ 0 → ∀ t, s.labels.address? l = some t →
      exec (.jnz l) s = .next (s.transferred t)) ∧
    (s.memServes s.cfg.addrAcc = true → s.acc ≠ 0 → s.labels.address? l = none →
      exec (.jnz l) s = .next (s.raised .jumpFail l)) ∧
    (s.memServes s.cfg.addrAcc = true → s.acc = 0 → exec (.jnz l) s = .next s.completed) ∧
    (s.memServes s.cfg.addrAcc = false →
      exec (.jnz l) s = .next (s.raised .memReadFail (zext16 s.cfg.addrAcc)))

/-- jc jumps exactly when CY is set. For every label: with CY = 1, jc completes with a transfer to the label's
address, or raises JUMP_FAIL when the label does not resolve; with CY = 0 it completes without a transfer. No port
is read and nothing else changes. -/
def Obligations.JcJumpsWhenCarrySet : Prop :=
  DecodesX16 0x22 .jc ∧
  ∀ (l : Half) (s : State),
    (s.psw.cy = true → ∀ t, s.labels.address? l = some t → exec (.jc l) s = .next (s.transferred t)) ∧
    (s.psw.cy = true → s.labels.address? l = none → exec (.jc l) s = .next (s.raised .jumpFail l)) ∧
    (s.psw.cy = false → exec (.jc l) s = .next s.completed)

/-- jnc jumps exactly when CY is clear. For every label: with CY = 0, jnc completes with a transfer to the label's
address, or raises JUMP_FAIL when the label does not resolve; with CY = 1 it completes without a transfer. Nothing
else changes. -/
def Obligations.JncJumpsWhenCarryClear : Prop :=
  DecodesX16 0x23 .jnc ∧
  ∀ (l : Half) (s : State),
    (s.psw.cy = false → ∀ t, s.labels.address? l = some t → exec (.jnc l) s = .next (s.transferred t)) ∧
    (s.psw.cy = false → s.labels.address? l = none → exec (.jnc l) s = .next (s.raised .jumpFail l)) ∧
    (s.psw.cy = true → exec (.jnc l) s = .next s.completed)

/-- djnz writes the operand minus one and jumps unless that is zero. For every operand and label: djnz stores (d - 1)
mod 256 at the effective address without writing a flag, then jumps exactly when the result is not 0 (d is not 1); a
label that does not resolve gives JUMP_FAIL with the decrement written; a refused write gives MEM_WRITE_FAIL before the
condition; a failing read changes nothing. Holds for djnzDir and djnzInd. Of the collaborators' answers that are left
(the model's own field, notes/assumptions/5.md) it says nothing. -/
def Obligations.DjnzDecrementsAndJumps : Prop :=
  (∀ (d : Dst) (f2 : Byte) (x16 : Half),
    decode (cw (headWith 0x24 d.mode .none) d.field f2 x16) = .ok (.djnz d x16)) ∧
  ∀ (d : Dst) (l : Half) (s : State) (r : Byte),
    r = BitVec.ofNat 8 (((s.mem.read (s.dstAddr d)).toNat + 255) % 256) →
    (s.firstUnserved (s.dstReads d ++ [s.dstAddr d]) = none → s.memAccepts (s.dstAddr d) = true →
      s.mem.read (s.dstAddr d) ≠ 1 →
      ∀ t, s.labels.address? l = some t → ∃ q, exec (.djnz d l) s =
        .next (State.transferred { s with answers := q, mem := s.mem.write (s.dstAddr d) r } t)) ∧
    (s.firstUnserved (s.dstReads d ++ [s.dstAddr d]) = none → s.memAccepts (s.dstAddr d) = true →
      s.mem.read (s.dstAddr d) ≠ 1 →
      s.labels.address? l = none → ∃ q, exec (.djnz d l) s =
        .next (State.raised { s with answers := q, mem := s.mem.write (s.dstAddr d) r } .jumpFail l)) ∧
    (s.firstUnserved (s.dstReads d ++ [s.dstAddr d]) = none → s.memAccepts (s.dstAddr d) = true →
      s.mem.read (s.dstAddr d) = 1 →
      ∃ q, exec (.djnz d l) s = .next (State.completed { s with answers := q, mem := s.mem.write (s.dstAddr d) 0 })) ∧
    (s.firstUnserved (s.dstReads d ++ [s.dstAddr d]) = none → s.memAccepts (s.dstAddr d) = false →
      ∃ q, exec (.djnz d l) s = .next (State.raised { s with answers := q } .memWriteFail (zext16 (s.dstAddr d)))) ∧
    (∀ a, s.firstUnserved (s.dstReads d ++ [s.dstAddr d]) = some a →
      exec (.djnz d l) s = .next (s.raised .memReadFail (zext16 a)))

/-- djnz with a label alone decrements A and jumps unless that is zero. For every label: as djnz with the operand A,
without an operand field (constructor djnzAcc). Of the collaborators' answers that are left (the model's own field,
notes/assumptions/5.md) it says nothing. -/
def Obligations.DjnzAccDecrementsAndJumps : Prop :=
  DecodesX16 0x24 .djnzAcc ∧
  ∀ (l : Half) (s : State) (r : Byte),
    r = BitVec.ofNat 8 (((s.mem.read s.cfg.addrAcc).toNat + 255) % 256) →
    (s.firstUnserved [s.cfg.addrAcc] = none → s.memAccepts s.cfg.addrAcc = true → s.mem.read s.cfg.addrAcc ≠ 1 →
      ∀ t, s.labels.address? l = some t → ∃ q, exec (.djnzAcc l) s =
        .next (State.transferred { s with answers := q, mem := s.mem.write s.cfg.addrAcc r } t)) ∧
    (s.firstUnserved [s.cfg.addrAcc] = none → s.memAccepts s.cfg.addrAcc = true → s.mem.read s.cfg.addrAcc ≠ 1 →
      s.labels.address? l = none → ∃ q, exec (.djnzAcc l) s =
        .next (State.raised { s with answers := q, mem := s.mem.write s.cfg.addrAcc r } .jumpFail l)) ∧
    (s.firstUnserved [s.cfg.addrAcc] = none → s.memAccepts s.cfg.addrAcc = true → s.mem.read s.cfg.addrAcc = 1 →
      ∃ q, exec (.djnzAcc l) s = .next (State.completed { s with answers := q, mem := s.mem.write s.cfg.addrAcc 0 })) ∧
    (s.firstUnserved [s.cfg.addrAcc] = none → s.memAccepts s.cfg.addrAcc = false →
      ∃ q, exec (.djnzAcc l) s = .next (State.raised { s with answers := q } .memWriteFail (zext16 s.cfg.addrAcc))) ∧
    (∀ a, s.firstUnserved [s.cfg.addrAcc] = some a →
      exec (.djnzAcc l) s = .next (s.raised .memReadFail (zext16 a)))

/-- cjne writes CY from the comparison and jumps when the values differ. For every first value, second value and
label: cjne writes CY = (first < second), unsigned, which is 0 for equal values, and no byte and no other flag; it
jumps exactly when the values differ; a label that does not resolve gives JUMP_FAIL with CY written; a failing read
changes nothing. Holds for the six constructors cjneDirDir, cjneDirInd, cjneDirImm, cjneIndDir, cjneIndInd,
cjneIndImm. -/
def Obligations.CjneComparesAndJumps : Prop :=
  (∀ (d : Dst) (v : Src) (x16 : Half),
    decode (cw (headWith 0x25 d.mode v.mode) d.field v.field x16) = .ok (.cjne d v x16)) ∧
  ∀ (d : Dst) (v : Src) (l : Half) (s f : State),
    f = { s with psw := { s.psw with cy := decide ((s.dstValue d).toNat < (s.srcValue v).toNat) } } →
    (s.firstUnserved (s.dstReads d ++ s.srcReads v ++ [s.dstAddr d]) = none → s.dstValue d ≠ s.srcValue v →
      ∀ t, s.labels.address? l = some t → exec (.cjne d v l) s = .next (f.transferred t)) ∧
    (s.firstUnserved (s.dstReads d ++ s.srcReads v ++ [s.dstAddr d]) = none → s.dstValue d ≠ s.srcValue v →
      s.labels.address? l = none → exec (.cjne d v l) s = .next (f.raised .jumpFail l)) ∧
    (s.firstUnserved (s.dstReads d ++ s.srcReads v ++ [s.dstAddr d]) = none → s.dstValue d = s.srcValue v →
      exec (.cjne d v l) s = .next f.completed ∧ f.psw.cy = false) ∧
    (∀ a, s.firstUnserved (s.dstReads d ++ s.srcReads v ++ [s.dstAddr d]) = some a →
      exec (.cjne d v l) s = .next (s.raised .memReadFail (zext16 a)))

/-- jb and jnb raise NOT_IMPLEMENTED, whatever their fields hold. In every state, every word with OP = 0x26 or 0x27,
whatever its modes, RSV and fields, and the instructions jb and jnb, end with status NOT_IMPLEMENTED, INFO = 0x0026
or 0x0027 and XFER = 0, and nothing else changes: that is their whole effect. -/
def Obligations.JbJnbRaiseNotImplemented : Prop :=
  ∀ s : State,
    exec .jb s = .next (s.raised .notImplemented 0x0026) ∧
    exec .jnb s = .next (s.raised .notImplemented 0x0027) ∧
    (∀ w : CW, w.extractLsb' 40 8 = 0x26 → decode w = .ok .jb ∧ present w s = .next (s.raised .notImplemented 0x0026)) ∧
    (∀ w : CW, w.extractLsb' 40 8 = 0x27 → decode w = .ok .jnb ∧ present w s = .next (s.raised .notImplemented 0x0027))

/-- Every command ends with one consistent status; none traps and none is refused. For every instruction and state
exec gives a next state; there INFO is 0 when STATUS is OK, and XFER is 1 only with OK. When the command started
without a target, XFER is 1 exactly when it made a Jump or a PcSet that succeeded, that is, when a target was noted.
-/
def Obligations.EveryCommandReturnsOneStatus : Prop :=
  ∀ (i : Instr) (s : State), ∃ t, exec i s = .next t ∧
    (t.status = .ok → t.info = 0) ∧ (t.xfer = true → t.status = .ok) ∧
    (s.target = none → (t.xfer = true ↔ t.target.isSome = true))

/-- No command writes a flag that R126 does not mark for it. For every instruction that gives a next state, failing
or not: a flag without a W mark in its row of R126 is unchanged, and a completed mul leaves CY clear. -/
def Obligations.FlagWriteMatrix : Prop :=
  ∀ (i : Instr) (s t : State), exec i s = .next t →
    ((flagsWritten i.mnemonic).1 = false → t.psw.cy = s.psw.cy) ∧
    ((flagsWritten i.mnemonic).2.1 = false → t.psw.ac = s.psw.ac) ∧
    ((flagsWritten i.mnemonic).2.2.1 = false → t.psw.p = s.psw.p) ∧
    ((flagsWritten i.mnemonic).2.2.2 = false → t.psw.ov = s.psw.ov) ∧
    (i.mnemonic = .mul → t.status = .ok → t.psw.cy = false)

/-- A command returns OK or a failure that R261 lists for it. For every instruction that gives a next state, its
status is OK or one of the failures in its row of R261. -/
def Obligations.FailuresEachCommandCanReturn : Prop :=
  ∀ (i : Instr) (s t : State), exec i s = .next t →
    t.status = .ok ∨ t.status ∈ possibleFailures i.mnemonic

/-- Outside the commands R263 names, a failure leaves no effect. For every instruction whose mnemonic is not add, subb,
anl, orl, mul, djnz or cjne: when it ends with a failure, nothing but the status port has changed, the collaborators'
answers apart (the model's own field, notes/assumptions/5.md). -/
def Obligations.OtherFailuresLeaveNoEffect : Prop :=
  ∀ (i : Instr) (s t : State), exec i s = .next t → t.status ≠ .ok → leavesPartialEffects i.mnemonic = false →
    ∃ q, t = State.raised { s with answers := q } t.status t.info

/-- What a command does does not depend on an earlier status, the program counter or the program. For every
instruction and state: changing PC, ENTRY, PROG, the last STATUS, INFO and XFER and whether the run has ended
changes nothing in what the command does: it leaves the same state but for the PC, ENTRY, PROG and end of run it was
given. -/
def Obligations.CoreDependsOnNoOtherState : Prop :=
  ∀ (i : Instr) (s t : State) (pc entry : Half) (g : Program) (st : Status) (n : Half) (x z : Bool),
    exec i s = .next t →
    exec i { s with pc := pc, entry := entry, prog := g, status := st, info := n, xfer := x, stopped := z } =
      .next { t with pc := pc, entry := entry, prog := g, stopped := z }

/-- A bit command changes no byte and no flag; every other command changes no bit. For every instruction that gives
a next state: setb, clr and cpl leave data memory and PSW as they were, and every other command leaves bit memory as
it was. -/
def Obligations.BytesBitsAndFlagsAreSeparate : Prop :=
  ∀ (i : Instr) (s t : State), exec i s = .next t →
    (i.mnemonic = .setb ∨ i.mnemonic = .clr ∨ i.mnemonic = .cpl → t.mem = s.mem ∧ t.psw = s.psw) ∧
    (i.mnemonic ≠ .setb → i.mnemonic ≠ .clr → i.mnemonic ≠ .cpl → t.bits = s.bits)

/-- No command and no step changes the program, the labels, ENTRY or the parameters. exec leaves the parameters, PC,
ENTRY, PROG, LABELS and the end of the run as they were (PC moves only in the dispatcher's advance) and uses up the
collaborators' answers to write requests only in their order (the model's own field, notes/assumptions/5.md), and a
step leaves the parameters, ENTRY, PROG and LABELS as they were. -/
def Obligations.NoCommandChangesProgramOrTables : Prop :=
  (∀ (i : Instr) (s t : State), exec i s = .next t → s.sameElsewhere t) ∧
  (∀ s t : State, step s = .next t →
    t.cfg = s.cfg ∧ t.entry = s.entry ∧ t.prog = s.prog ∧ t.labels = s.labels)

/-- A host write between commands changes one flag, byte or bit, and the next command sees a flag written. Between
commands a flag-port write makes that flag read as written and leaves the other three flags and all other state, and
the next command sees it: after CY is written 1 a jc jumps, after CY is written 0 it does not. A host's write of a byte
or a bit makes that byte or bit read as written, every other one reads as before, and nothing else changes. -/
def Obligations.HostWriteChangesOneFlagByteOrBit : Prop :=
  ∀ s : State,
    (∀ (f : Flag) (x : Bool), s.hostAct (.writeFlag f x) = s.writeFlag f x ∧ (s.writeFlag f x).readFlag f = x ∧
      (∀ g, g ≠ f → (s.writeFlag f x).readFlag g = s.readFlag g) ∧
      ∃ q, s.writeFlag f x = { s with psw := q }) ∧
    (∀ l t, s.labels.address? l = some t →
      exec (.jc l) (s.writeFlag .cy true) = .next ((s.writeFlag .cy true).transferred t) ∧
      exec (.jc l) (s.writeFlag .cy false) = .next (s.writeFlag .cy false).completed) ∧
    (∀ a v : Byte, (s.hostAct (.writeByte a v)).mem.read a = v ∧
      (∀ b, b ≠ a → (s.hostAct (.writeByte a v)).mem.read b = s.mem.read b) ∧
      ∃ m, s.hostAct (.writeByte a v) = { s with mem := m }) ∧
    (∀ (b : Byte) (x : Bool), (s.hostAct (.writeBit b x)).bits.read b = x ∧
      (∀ c, c ≠ b → (s.hostAct (.writeBit b x)).bits.read c = s.bits.read c) ∧
      ∃ m, s.hostAct (.writeBit b x) = { s with bits := m })

/-- What mov, add, subb, anl and orl leave unchanged. When one of them gives a next state: every byte but the one at
the address resolveDst gives reads as before, and every byte when resolveDst fails; bit memory, the dispatcher's target
and everything outside PSW, data memory and the status port are unchanged; mov leaves PSW, anl and orl leave CY and AC.
The collaborators' answers (the model's own field, notes/assumptions/5.md) may be used up in their order. -/
def Obligations.TwoOperandFrame : Prop :=
  ∀ (i : Instr) (d : Dst) (v : Src) (s t : State),
    i = .mov d v ∨ i = .add d v ∨ i = .subb d v ∨ i = .anl d v ∨ i = .orl d v →
    exec i s = .next t →
    (∀ ea u, (resolveDst d).run s = .ok ea u → ∀ b, b ≠ ea → t.mem.read b = s.mem.read b) ∧
    (∀ e u, (resolveDst d).run s = .error e u → ∀ b, t.mem.read b = s.mem.read b) ∧
    t.bits = s.bits ∧ t.target = s.target ∧ s.sameElsewhere t ∧
    (i = .mov d v → t.psw = s.psw) ∧
    (i = .anl d v ∨ i = .orl d v → t.psw.cy = s.psw.cy ∧ t.psw.ac = s.psw.ac)

/-- What inc, dec and da leave unchanged. When one of them gives a next state: every byte but the one at the address
resolveDst gives reads as before, and every byte when resolveDst fails; PSW, bit memory, the dispatcher's target and
everything else but the status port are unchanged. The collaborators' answers (the model's own field,
notes/assumptions/5.md) may be used up in their order. -/
def Obligations.OneOperandFrame : Prop :=
  ∀ (i : Instr) (d : Dst) (s t : State),
    i = .inc d ∨ i = .dec d ∨ i = .da d →
    exec i s = .next t →
    (∀ ea u, (resolveDst d).run s = .ok ea u → ∀ b, b ≠ ea → t.mem.read b = s.mem.read b) ∧
    (∀ e u, (resolveDst d).run s = .error e u → ∀ b, t.mem.read b = s.mem.read b) ∧
    t.psw = s.psw ∧ t.bits = s.bits ∧ t.target = s.target ∧ s.sameElsewhere t

/-- What rl and rr leave unchanged. When one of them gives a next state: with ea the address resolveDst gives, every
byte but the one at rotateTarget of ea reads as before, and every byte when resolveDst fails; PSW, bit memory, the
dispatcher's target and everything else but the status port are unchanged. The collaborators' answers (the model's own
field, notes/assumptions/5.md) may be used up in their order. -/
def Obligations.RotateFrame : Prop :=
  ∀ (i : Instr) (d : Dst) (s t : State),
    i = .rl d ∨ i = .rr d →
    exec i s = .next t →
    (∀ ea u, (resolveDst d).run s = .ok ea u → ∀ b, b ≠ rotateTarget s.cfg ea → t.mem.read b = s.mem.read b) ∧
    (∀ e u, (resolveDst d).run s = .error e u → ∀ b, t.mem.read b = s.mem.read b) ∧
    t.psw = s.psw ∧ t.bits = s.bits ∧ t.target = s.target ∧ s.sameElsewhere t

/-- What mul leaves unchanged. When mul gives a next state: every byte but those at MUL_LO_ADDR and MUL_HI_ADDR reads
as before; AC, P, bit memory, the dispatcher's target and everything else but CY, OV and the status port are unchanged.
The collaborators' answers (the model's own field, notes/assumptions/5.md) may be used up in their order. -/
def Obligations.MulFrame : Prop :=
  ∀ s t : State, exec .mul s = .next t →
    (∀ b, b ≠ s.cfg.mulLoAddr → b ≠ s.cfg.mulHiAddr → t.mem.read b = s.mem.read b) ∧
    t.psw.ac = s.psw.ac ∧ t.psw.p = s.psw.p ∧ t.bits = s.bits ∧ t.target = s.target ∧ s.sameElsewhere t

/-- What setb, clr and cpl leave unchanged. When one of them gives a next state: every bit but the addressed one and
every byte read as before; PSW, the dispatcher's target and everything else but the status port are unchanged. The
collaborators' answers (the model's own field, notes/assumptions/5.md) may be used up in their order. -/
def Obligations.BitCommandFrame : Prop :=
  ∀ (i : Instr) (b : Byte) (s t : State),
    i = .setb b ∨ i = .clr b ∨ i = .cpl b →
    exec i s = .next t →
    (∀ c, c ≠ b → t.bits.read c = s.bits.read c) ∧ (∀ a, t.mem.read a = s.mem.read a) ∧
    t.psw = s.psw ∧ t.target = s.target ∧ s.sameElsewhere t

/-- What org, jz, jnz, jc, jnc, jb and jnb leave unchanged. When one of them gives a next state: every byte and every
bit reads as before and PSW and everything else but the target and the status port are unchanged; the target changes
only with a transfer. The collaborators' answers (the model's own field, notes/assumptions/5.md) may be used up in
their order. -/
def Obligations.TransferFrame : Prop :=
  ∀ (i : Instr) (l : Half) (s t : State),
    i = .org l ∨ i = .jz l ∨ i = .jnz l ∨ i = .jc l ∨ i = .jnc l ∨ i = .jb ∨ i = .jnb →
    exec i s = .next t →
    (∀ a, t.mem.read a = s.mem.read a) ∧ (∀ b, t.bits.read b = s.bits.read b) ∧ t.psw = s.psw ∧
    s.sameElsewhere t ∧ (t.xfer = false → t.target = s.target)

/-- What djnz and cjne leave unchanged. When djnz gives a next state, every byte but the one at the address resolveDst
gives (ADDR_ACC for the one-operand form) reads as before, every byte when resolveDst fails, and PSW is unchanged; when
cjne does, every byte reads as before and AC, P and OV are unchanged. Bit memory and everything else but the target and
the status port are unchanged; the target changes only with a transfer. The collaborators' answers (the model's own
field, notes/assumptions/5.md) may be used up in their order. -/
def Obligations.LoopAndCompareFrame : Prop :=
  ∀ (d : Dst) (v : Src) (l : Half) (s t : State),
    (exec (.djnz d l) s = .next t →
      (∀ ea u, (resolveDst d).run s = .ok ea u → ∀ b, b ≠ ea → t.mem.read b = s.mem.read b) ∧
      (∀ e u, (resolveDst d).run s = .error e u → ∀ b, t.mem.read b = s.mem.read b) ∧
      t.psw = s.psw ∧ t.bits = s.bits ∧ s.sameElsewhere t ∧ (t.xfer = false → t.target = s.target)) ∧
    (exec (.djnzAcc l) s = .next t →
      (∀ b, b ≠ s.cfg.addrAcc → t.mem.read b = s.mem.read b) ∧
      t.psw = s.psw ∧ t.bits = s.bits ∧ s.sameElsewhere t ∧ (t.xfer = false → t.target = s.target)) ∧
    (exec (.cjne d v l) s = .next t →
      (∀ b, t.mem.read b = s.mem.read b) ∧
      t.psw.ac = s.psw.ac ∧ t.psw.p = s.psw.p ∧ t.psw.ov = s.psw.ov ∧ t.bits = s.bits ∧
      s.sameElsewhere t ∧ (t.xfer = false → t.target = s.target))

/-- The eleven status codes. STATUS[3:0] is 0 for OK, 1 for NOT_IMPLEMENTED, 2 for UNKNOWN_OPCODE, 3 for
ILLEGAL_OPERAND, 4 for MEM_READ_FAIL, 5 for MEM_WRITE_FAIL, 6 for BIT_READ_FAIL, 7 for BIT_WRITE_FAIL, 8 for JUMP_FAIL,
9 for PC_WRITE_FAIL and 10 for VALUE_RANGE; no status has a code of 11 to 15. -/
def Obligations.StatusCodes : Prop :=
  (Status.ok.code = 0 ∧ Status.notImplemented.code = 1 ∧ Status.unknownOpcode.code = 2 ∧
    Status.illegalOperand.code = 3 ∧ Status.memReadFail.code = 4 ∧ Status.memWriteFail.code = 5 ∧
    Status.bitReadFail.code = 6 ∧ Status.bitWriteFail.code = 7 ∧ Status.jumpFail.code = 8 ∧
    Status.pcWriteFail.code = 9 ∧ Status.valueRange.code = 10) ∧
  ∀ st : Status, st.code ≤ 10
end

