-- ==== Sys2Proof/Laws/Decode.lean ====
section
/-! SUPPORT. The fields of an encoded command word. -/

namespace Sys2Proof

/-- The bits of a word put together from CW[47:32] and F1, F2, X16 (R81). -/
theorem cw_getLsbD (head : Half) (f1 f2 : Byte) (x16 : Half) (i : Nat) :
    (cw head f1 f2 x16).getLsbD i =
      if i < 16 then x16.getLsbD i else if i < 24 then f2.getLsbD (i - 16)
      else if i < 32 then f1.getLsbD (i - 24) else head.getLsbD (i - 32) := by
  show BitVec.getLsbD (w := 16 + 8 + 8 + 16) (head ++ f1 ++ f2 ++ x16) i = _
  rw [BitVec.getLsbD_append, BitVec.getLsbD_append, BitVec.getLsbD_append]
  by_cases h16 : i < 16
  · rw [if_pos h16, if_pos h16]
  · rw [if_neg h16, if_neg h16]
    by_cases h24 : i < 24
    · rw [if_pos (by omega), if_pos h24]
    · rw [if_neg (by omega), if_neg h24]
      by_cases h32 : i < 32
      · rw [if_pos (by omega), if_pos h32]; congr 1
      · rw [if_neg (by omega), if_neg h32]; congr 1

/-- A field of CW[47:32]. -/
theorem cw_head_field (head : Half) (f1 f2 : Byte) (x16 : Half) (k n : Nat) :
    (cw head f1 f2 x16).extractLsb' (32 + k) n = head.extractLsb' k n := by
  apply BitVec.eq_of_getLsbD_eq
  intro i hi
  rw [BitVec.getLsbD_extractLsb', BitVec.getLsbD_extractLsb', cw_getLsbD, if_neg (by omega), if_neg (by omega),
    if_neg (by omega)]
  congr 2; omega

theorem cw_f1 (head : Half) (f1 f2 : Byte) (x16 : Half) : (cw head f1 f2 x16).extractLsb' 24 8 = f1 := by
  apply BitVec.eq_of_getLsbD_eq
  intro i hi
  rw [BitVec.getLsbD_extractLsb', cw_getLsbD, if_neg (by omega), if_neg (by omega), if_pos (by omega)]
  simp [hi]

theorem cw_f2 (head : Half) (f1 f2 : Byte) (x16 : Half) : (cw head f1 f2 x16).extractLsb' 16 8 = f2 := by
  apply BitVec.eq_of_getLsbD_eq
  intro i hi
  rw [BitVec.getLsbD_extractLsb', cw_getLsbD, if_neg (by omega), if_pos (by omega)]
  simp [hi]

theorem cw_x16 (head : Half) (f1 f2 : Byte) (x16 : Half) : (cw head f1 f2 x16).extractLsb' 0 16 = x16 := by
  apply BitVec.eq_of_getLsbD_eq
  intro i hi
  rw [BitVec.getLsbD_extractLsb', cw_getLsbD, if_pos (by omega)]
  simp [hi]

/-- The fields of a word put together from CW[47:32] and F1, F2, X16 (R81). -/
theorem Command.ofWord_cw (head : Half) (f1 f2 : Byte) (x16 : Half) :
    Command.ofWord (cw head f1 f2 x16) =
      { op := head.extractLsb' 8 8, m1 := .ofBits (head.extractLsb' 6 2), m2 := .ofBits (head.extractLsb' 4 2),
        rsv := head.extractLsb' 0 4, f1 := f1, f2 := f2, x16 := x16 } := by
  simp only [Command.ofWord, cw_head_field head f1 f2 x16 8 8, cw_head_field head f1 f2 x16 6 2,
    cw_head_field head f1 f2 x16 4 2, cw_head_field head f1 f2 x16 0 4, cw_f1, cw_f2, cw_x16]

theorem headOf_cw (head : Half) (f1 f2 : Byte) (x16 : Half) : headOf (cw head f1 f2 x16) = head := by
  rw [headOf, cw_head_field head f1 f2 x16 0 16]
  exact BitVec.extractLsb'_eq_self

/-- Decoding a word put together from CW[47:32] and F1, F2, X16. -/
theorem decode_cw (head : Half) (f1 f2 : Byte) (x16 : Half) :
    decode (cw head f1 f2 x16) = decodeFields
      { op := head.extractLsb' 8 8, m1 := .ofBits (head.extractLsb' 6 2), m2 := .ofBits (head.extractLsb' 4 2),
        rsv := head.extractLsb' 0 4, f1 := f1, f2 := f2, x16 := x16 } head := by
  rw [decode, Command.ofWord_cw, headOf_cw]

/-- The bits of CW[47:32] put together from an opcode and a mode pair (R81). -/
theorem headWith_getLsbD (op : Byte) (m1 m2 : Mode) (i : Nat) :
    (headWith op m1 m2).getLsbD i =
      if i < 4 then false else if i < 6 then m2.bits.getLsbD (i - 4)
      else if i < 8 then m1.bits.getLsbD (i - 6) else op.getLsbD (i - 8) := by
  show BitVec.getLsbD (w := 8 + 2 + 2 + 4) (op ++ m1.bits ++ m2.bits ++ (0 : BitVec 4)) i = _
  rw [BitVec.getLsbD_append, BitVec.getLsbD_append, BitVec.getLsbD_append]
  by_cases h4 : i < 4
  · rw [if_pos h4, if_pos h4]; exact BitVec.getLsbD_zero
  · rw [if_neg h4, if_neg h4]
    by_cases h6 : i < 6
    · rw [if_pos (by omega), if_pos h6]
    · rw [if_neg (by omega), if_neg h6]
      by_cases h8 : i < 8
      · rw [if_pos (by omega), if_pos h8]; congr 1
      · rw [if_neg (by omega), if_neg h8]; congr 1

@[simp] theorem Mode.ofBits_bits (m : Mode) : Mode.ofBits m.bits = m := by cases m <;> rfl

theorem headWith_op (op : Byte) (m1 m2 : Mode) : (headWith op m1 m2).extractLsb' 8 8 = op := by
  apply BitVec.eq_of_getLsbD_eq
  intro i hi
  rw [BitVec.getLsbD_extractLsb', headWith_getLsbD, if_neg (by omega), if_neg (by omega), if_neg (by omega)]
  simp [hi]

theorem headWith_m1 (op : Byte) (m1 m2 : Mode) : (headWith op m1 m2).extractLsb' 6 2 = m1.bits := by
  apply BitVec.eq_of_getLsbD_eq
  intro i hi
  rw [BitVec.getLsbD_extractLsb', headWith_getLsbD, if_neg (by omega), if_neg (by omega), if_pos (by omega)]
  simp [hi]

theorem headWith_m2 (op : Byte) (m1 m2 : Mode) : (headWith op m1 m2).extractLsb' 4 2 = m2.bits := by
  apply BitVec.eq_of_getLsbD_eq
  intro i hi
  rw [BitVec.getLsbD_extractLsb', headWith_getLsbD, if_neg (by omega), if_pos (by omega)]
  simp [hi]

theorem headWith_rsv (op : Byte) (m1 m2 : Mode) : (headWith op m1 m2).extractLsb' 0 4 = 0 := by
  apply BitVec.eq_of_getLsbD_eq
  intro i hi
  rw [BitVec.getLsbD_extractLsb', headWith_getLsbD, if_pos (by omega)]
  simp

/-- Decoding a word with a given opcode, mode pair and fields, and RSV = 0000: what every statement about the words of a
format rests on. -/
theorem decode_cw_headWith (op : Byte) (m1 m2 : Mode) (f1 f2 : Byte) (x16 : Half) :
    decode (cw (headWith op m1 m2) f1 f2 x16) = decodeFields ⟨op, m1, m2, 0, f1, f2, x16⟩ (headWith op m1 m2) := by
  rw [decode_cw, headWith_op, headWith_m1, headWith_m2, headWith_rsv, Mode.ofBits_bits, Mode.ofBits_bits]
end Sys2Proof
end

