-- ==== Sys2Proof/Laws/Store.lean ====
section
/-! SUPPORT. Laws of the tables: a read after a write, the canonical form is kept, and tables in canonical form that read
alike are equal. -/

namespace Sys2Proof.Machine

variable {α : Type}

/-! ### Tables -/

theorem Store.find?_insert_self (m : List (Nat × α)) (k : Nat) (v : α) :
    Store.find? (Store.insert m k v) k = some v := by
  induction m with
  | nil => simp [Store.insert, Store.find?]
  | cons e m ih =>
    unfold Store.insert
    split
    · simp [Store.find?]
    · split <;> simp_all [Store.find?]

theorem Store.find?_insert_of_ne (m : List (Nat × α)) {k j : Nat} (v : α) (h : j ≠ k) :
    Store.find? (Store.insert m k v) j = Store.find? m j := by
  induction m with
  | nil => simp [Store.insert, Store.find?, Ne.symm h]
  | cons e m ih =>
    unfold Store.insert
    split
    · simp [Store.find?, Ne.symm h]
    · split
      · simp_all [Store.find?, Ne.symm h]
      · simp [Store.find?, ih]

theorem Store.find?_erase_self (m : List (Nat × α)) (k : Nat) :
    Store.find? (Store.erase m k) k = none := by
  induction m with
  | nil => rfl
  | cons e m ih =>
    unfold Store.erase
    split
    · exact ih
    · simp_all [Store.find?]

theorem Store.find?_erase_of_ne (m : List (Nat × α)) {k j : Nat} (h : j ≠ k) :
    Store.find? (Store.erase m k) j = Store.find? m j := by
  induction m with
  | nil => rfl
  | cons e m ih =>
    unfold Store.erase
    split
    · simp_all [Store.find?, Ne.symm h]
    · simp [Store.find?, ih]

theorem Store.risingFrom_mono {lo lo' : Nat} (m : List (Nat × α)) (h : lo' ≤ lo)
    (hm : Store.risingFrom lo m = true) : Store.risingFrom lo' m = true := by
  cases m with
  | nil => rfl
  | cons e m =>
    simp only [Store.risingFrom, Bool.and_eq_true, decide_eq_true_eq] at hm ⊢
    exact ⟨by omega, hm.2⟩

theorem Store.risingFrom_insert {lo : Nat} (m : List (Nat × α)) {k : Nat} (v : α) (hk : lo ≤ k)
    (hm : Store.risingFrom lo m = true) : Store.risingFrom lo (Store.insert m k v) = true := by
  induction m generalizing lo with
  | nil => simp [Store.insert, Store.risingFrom, hk]
  | cons e m ih =>
    simp only [Store.risingFrom, Bool.and_eq_true, decide_eq_true_eq] at hm
    unfold Store.insert
    split
    · simp only [Store.risingFrom, Bool.and_eq_true, decide_eq_true_eq]
      exact ⟨hk, by omega, hm.2⟩
    · split
      · next h => subst h; simp [Store.risingFrom, hk, hm.2]
      · simp only [Store.risingFrom, Bool.and_eq_true, decide_eq_true_eq]
        exact ⟨hm.1, ih (by omega) hm.2⟩

theorem Store.risingFrom_erase {lo : Nat} (m : List (Nat × α)) (k : Nat)
    (hm : Store.risingFrom lo m = true) : Store.risingFrom lo (Store.erase m k) = true := by
  induction m generalizing lo with
  | nil => rfl
  | cons e m ih =>
    simp only [Store.risingFrom, Bool.and_eq_true, decide_eq_true_eq] at hm
    unfold Store.erase
    split
    · exact ih (Store.risingFrom_mono m (by omega) hm.2)
    · simp only [Store.risingFrom, Bool.and_eq_true, decide_eq_true_eq]
      exact ⟨hm.1, ih hm.2⟩

theorem Store.all_insert (p : Nat × α → Bool) (m : List (Nat × α)) {k : Nat} {v : α} (hv : p (k, v) = true)
    (hm : m.all p = true) : (Store.insert m k v).all p = true := by
  induction m with
  | nil => simp [Store.insert, hv]
  | cons e m ih =>
    simp only [List.all_cons, Bool.and_eq_true] at hm
    unfold Store.insert
    split
    · simp [hv, hm.1, hm.2]
    · split
      · simp [hv, hm.2]
      · simp [hm.1, ih hm.2]

theorem Store.all_erase (p : Nat × α → Bool) (m : List (Nat × α)) (k : Nat)
    (hm : m.all p = true) : (Store.erase m k).all p = true := by
  induction m with
  | nil => rfl
  | cons e m ih =>
    simp only [List.all_cons, Bool.and_eq_true] at hm
    unfold Store.erase
    split
    · exact ih hm.2
    · simp [hm.1, ih hm.2]

theorem Store.wf_insert {bound : Nat} {m : List (Nat × α)} {k : Nat} (v : α) (hk : k < bound)
    (hm : Store.wf bound m = true) : Store.wf bound (Store.insert m k v) = true := by
  simp only [Store.wf, Bool.and_eq_true] at hm ⊢
  exact ⟨Store.risingFrom_insert m v (Nat.zero_le k) hm.1, Store.all_insert _ m (by simp [hk]) hm.2⟩

theorem Store.wf_erase {bound : Nat} {m : List (Nat × α)} (k : Nat)
    (hm : Store.wf bound m = true) : Store.wf bound (Store.erase m k) = true := by
  simp only [Store.wf, Bool.and_eq_true] at hm ⊢
  exact ⟨Store.risingFrom_erase m k hm.1, Store.all_erase _ m k hm.2⟩

/-- A key below a rising table's first bound is not in it. -/
theorem Store.find?_eq_none_of_lt {lo : Nat} (m : List (Nat × α)) {k : Nat} (h : k < lo)
    (hm : Store.risingFrom lo m = true) : Store.find? m k = none := by
  induction m generalizing lo with
  | nil => rfl
  | cons e m ih =>
    simp only [Store.risingFrom, Bool.and_eq_true, decide_eq_true_eq] at hm
    rw [Store.find?, if_neg (by omega), ih (by omega : k < e.1 + 1) hm.2]

/-- Rising tables that give the same value at every key are equal. -/
theorem Store.ext {lo : Nat} (m n : List (Nat × α)) (hm : Store.risingFrom lo m = true)
    (hn : Store.risingFrom lo n = true) (h : ∀ k, Store.find? m k = Store.find? n k) : m = n := by
  induction m generalizing lo n with
  | nil =>
    cases n with
    | nil => rfl
    | cons f n => have := h f.1; simp [Store.find?] at this
  | cons e m ih =>
    cases n with
    | nil => have := h e.1; simp [Store.find?] at this
    | cons f n =>
      simp only [Store.risingFrom, Bool.and_eq_true, decide_eq_true_eq] at hm hn
      have hkey : e.1 = f.1 := by
        rcases Nat.lt_trichotomy e.1 f.1 with hlt | heq | hgt
        · have := h e.1
          rw [Store.find?, if_pos rfl, Store.find?, if_neg (by omega),
            Store.find?_eq_none_of_lt n (by omega : e.1 < f.1 + 1) hn.2] at this
          cases this
        · exact heq
        · have := h f.1
          rw [Store.find?, if_neg (by omega), Store.find?_eq_none_of_lt m (by omega : f.1 < e.1 + 1) hm.2,
            Store.find?, if_pos rfl] at this
          cases this
      have hval : e.2 = f.2 := by
        have := h e.1
        rwa [Store.find?, if_pos rfl, Store.find?, if_pos hkey.symm, Option.some.injEq] at this
      have htail : m = n := by
        refine ih n hm.2 (by rw [hkey]; exact hn.2) fun k => ?_
        by_cases hk : k < e.1 + 1
        · rw [Store.find?_eq_none_of_lt m hk hm.2, Store.find?_eq_none_of_lt n (by omega : k < f.1 + 1) hn.2]
        · have := h k
          rwa [Store.find?, if_neg (by omega), Store.find?, if_neg (by omega)] at this
      rw [htail, Prod.ext hkey hval]

/-! ### Data memory -/

@[simp] theorem Memory.read_write_self (m : Memory) (a v : Byte) : (m.write a v).read a = v := by
  unfold Memory.write Memory.read
  split
  · next h => rw [Store.find?_erase_self]; exact h.symm
  · rw [Store.find?_insert_self]; rfl

theorem Memory.read_write_of_ne (m : Memory) {a b : Byte} (v : Byte) (h : b ≠ a) :
    (m.write a v).read b = m.read b := by
  have hn : b.toNat ≠ a.toNat := fun e => h (BitVec.eq_of_toNat_eq e)
  unfold Memory.write Memory.read
  split
  · rw [Store.find?_erase_of_ne m hn]
  · rw [Store.find?_insert_of_ne m v hn]

theorem Memory.read_write (m : Memory) (a b v : Byte) :
    (m.write a v).read b = if b = a then v else m.read b := by
  split
  · next h => rw [h, Memory.read_write_self]
  · next h => exact Memory.read_write_of_ne m v h

theorem Memory.wf_write {m : Memory} (a v : Byte) (h : m.wf = true) : (m.write a v).wf = true := by
  simp only [Memory.wf, Bool.and_eq_true] at h ⊢
  unfold Memory.write
  split
  · exact ⟨Store.wf_erase _ h.1, Store.all_erase _ m _ h.2⟩
  · next hv => exact ⟨Store.wf_insert v a.isLt h.1, Store.all_insert _ m (by simpa using hv) h.2⟩

/-! ### Bit memory -/

@[simp] theorem BitMemory.read_write_self (m : BitMemory) (b : Byte) (x : Bool) : (m.write b x).read b = x := by
  unfold BitMemory.write BitMemory.read
  split
  · next h => rw [Store.find?_erase_self]; exact h.symm
  · rw [Store.find?_insert_self]; rfl

theorem BitMemory.read_write_of_ne (m : BitMemory) {b c : Byte} (x : Bool) (h : c ≠ b) :
    (m.write b x).read c = m.read c := by
  have hn : c.toNat ≠ b.toNat := fun e => h (BitVec.eq_of_toNat_eq e)
  unfold BitMemory.write BitMemory.read
  split
  · rw [Store.find?_erase_of_ne m hn]
  · rw [Store.find?_insert_of_ne m x hn]

theorem BitMemory.wf_write {m : BitMemory} (b : Byte) (x : Bool) (h : m.wf = true) : (m.write b x).wf = true := by
  simp only [BitMemory.wf, Bool.and_eq_true] at h ⊢
  unfold BitMemory.write
  split
  · exact ⟨Store.wf_erase _ h.1, Store.all_erase _ m _ h.2⟩
  · next hx => exact ⟨Store.wf_insert x b.isLt h.1, Store.all_insert _ m (by simpa using hx) h.2⟩

/-! ### Program -/

@[simp] theorem Program.word?_put_self (p : Program) (a : Half) (w : CW) : (p.put a w).word? a = some w :=
  Store.find?_insert_self p a.toNat w

theorem Program.word?_put_of_ne (p : Program) {a b : Half} (w : CW) (h : b ≠ a) :
    (p.put a w).word? b = p.word? b :=
  Store.find?_insert_of_ne p w fun e => h (BitVec.eq_of_toNat_eq e)

theorem Program.wf_put {p : Program} (a : Half) (w : CW) (h : p.wf = true) : (p.put a w).wf = true :=
  Store.wf_insert w a.isLt h

end Sys2Proof.Machine
end

