-- ==== Sys2Proof/Laws/State.lean ====
section
/-! SUPPORT. One lemma per field for each update of a state. -/

namespace Sys2Proof.Machine

/-! ### answered -/

@[simp] theorem State.answered_cfg (s : State) : s.answered.cfg = s.cfg := rfl
@[simp] theorem State.answered_psw (s : State) : s.answered.psw = s.psw := rfl
@[simp] theorem State.answered_mem (s : State) : s.answered.mem = s.mem := rfl
@[simp] theorem State.answered_bits (s : State) : s.answered.bits = s.bits := rfl
@[simp] theorem State.answered_answers (s : State) : s.answered.answers = s.answers.tail := rfl
@[simp] theorem State.answered_pc (s : State) : s.answered.pc = s.pc := rfl
@[simp] theorem State.answered_entry (s : State) : s.answered.entry = s.entry := rfl
@[simp] theorem State.answered_prog (s : State) : s.answered.prog = s.prog := rfl
@[simp] theorem State.answered_labels (s : State) : s.answered.labels = s.labels := rfl
@[simp] theorem State.answered_target (s : State) : s.answered.target = s.target := rfl
@[simp] theorem State.answered_status (s : State) : s.answered.status = s.status := rfl
@[simp] theorem State.answered_info (s : State) : s.answered.info = s.info := rfl
@[simp] theorem State.answered_xfer (s : State) : s.answered.xfer = s.xfer := rfl
@[simp] theorem State.answered_stopped (s : State) : s.answered.stopped = s.stopped := rfl

/-! ### wrote -/

@[simp] theorem State.wrote_cfg (s : State) (a v : Byte) : (s.wrote a v).cfg = s.cfg := rfl
@[simp] theorem State.wrote_psw (s : State) (a v : Byte) : (s.wrote a v).psw = s.psw := rfl
@[simp] theorem State.wrote_mem (s : State) (a v : Byte) : (s.wrote a v).mem = s.mem.write a v := rfl
@[simp] theorem State.wrote_bits (s : State) (a v : Byte) : (s.wrote a v).bits = s.bits := rfl
@[simp] theorem State.wrote_answers (s : State) (a v : Byte) : (s.wrote a v).answers = s.answers.tail := rfl
@[simp] theorem State.wrote_pc (s : State) (a v : Byte) : (s.wrote a v).pc = s.pc := rfl
@[simp] theorem State.wrote_entry (s : State) (a v : Byte) : (s.wrote a v).entry = s.entry := rfl
@[simp] theorem State.wrote_prog (s : State) (a v : Byte) : (s.wrote a v).prog = s.prog := rfl
@[simp] theorem State.wrote_labels (s : State) (a v : Byte) : (s.wrote a v).labels = s.labels := rfl
@[simp] theorem State.wrote_target (s : State) (a v : Byte) : (s.wrote a v).target = s.target := rfl
@[simp] theorem State.wrote_status (s : State) (a v : Byte) : (s.wrote a v).status = s.status := rfl
@[simp] theorem State.wrote_info (s : State) (a v : Byte) : (s.wrote a v).info = s.info := rfl
@[simp] theorem State.wrote_xfer (s : State) (a v : Byte) : (s.wrote a v).xfer = s.xfer := rfl
@[simp] theorem State.wrote_stopped (s : State) (a v : Byte) : (s.wrote a v).stopped = s.stopped := rfl

/-! ### wroteBit -/

@[simp] theorem State.wroteBit_cfg (s : State) (b : Byte) (x : Bool) : (s.wroteBit b x).cfg = s.cfg := rfl
@[simp] theorem State.wroteBit_psw (s : State) (b : Byte) (x : Bool) : (s.wroteBit b x).psw = s.psw := rfl
@[simp] theorem State.wroteBit_mem (s : State) (b : Byte) (x : Bool) : (s.wroteBit b x).mem = s.mem := rfl
@[simp] theorem State.wroteBit_bits (s : State) (b : Byte) (x : Bool) : (s.wroteBit b x).bits = s.bits.write b x := rfl
@[simp] theorem State.wroteBit_answers (s : State) (b : Byte) (x : Bool) : (s.wroteBit b x).answers = s.answers.tail := rfl
@[simp] theorem State.wroteBit_pc (s : State) (b : Byte) (x : Bool) : (s.wroteBit b x).pc = s.pc := rfl
@[simp] theorem State.wroteBit_entry (s : State) (b : Byte) (x : Bool) : (s.wroteBit b x).entry = s.entry := rfl
@[simp] theorem State.wroteBit_prog (s : State) (b : Byte) (x : Bool) : (s.wroteBit b x).prog = s.prog := rfl
@[simp] theorem State.wroteBit_labels (s : State) (b : Byte) (x : Bool) : (s.wroteBit b x).labels = s.labels := rfl
@[simp] theorem State.wroteBit_target (s : State) (b : Byte) (x : Bool) : (s.wroteBit b x).target = s.target := rfl
@[simp] theorem State.wroteBit_status (s : State) (b : Byte) (x : Bool) : (s.wroteBit b x).status = s.status := rfl
@[simp] theorem State.wroteBit_info (s : State) (b : Byte) (x : Bool) : (s.wroteBit b x).info = s.info := rfl
@[simp] theorem State.wroteBit_xfer (s : State) (b : Byte) (x : Bool) : (s.wroteBit b x).xfer = s.xfer := rfl
@[simp] theorem State.wroteBit_stopped (s : State) (b : Byte) (x : Bool) : (s.wroteBit b x).stopped = s.stopped := rfl

/-! ### noted -/

@[simp] theorem State.noted_cfg (s : State) (t : Half) : (s.noted t).cfg = s.cfg := rfl
@[simp] theorem State.noted_psw (s : State) (t : Half) : (s.noted t).psw = s.psw := rfl
@[simp] theorem State.noted_mem (s : State) (t : Half) : (s.noted t).mem = s.mem := rfl
@[simp] theorem State.noted_bits (s : State) (t : Half) : (s.noted t).bits = s.bits := rfl
@[simp] theorem State.noted_answers (s : State) (t : Half) : (s.noted t).answers = s.answers := rfl
@[simp] theorem State.noted_pc (s : State) (t : Half) : (s.noted t).pc = s.pc := rfl
@[simp] theorem State.noted_entry (s : State) (t : Half) : (s.noted t).entry = s.entry := rfl
@[simp] theorem State.noted_prog (s : State) (t : Half) : (s.noted t).prog = s.prog := rfl
@[simp] theorem State.noted_labels (s : State) (t : Half) : (s.noted t).labels = s.labels := rfl
@[simp] theorem State.noted_target (s : State) (t : Half) : (s.noted t).target = some t := rfl
@[simp] theorem State.noted_status (s : State) (t : Half) : (s.noted t).status = s.status := rfl
@[simp] theorem State.noted_info (s : State) (t : Half) : (s.noted t).info = s.info := rfl
@[simp] theorem State.noted_xfer (s : State) (t : Half) : (s.noted t).xfer = s.xfer := rfl
@[simp] theorem State.noted_stopped (s : State) (t : Half) : (s.noted t).stopped = s.stopped := rfl

/-! ### report -/

@[simp] theorem State.report_cfg (s : State) (st : Status) (n : Half) (x : Xfer) : (s.report st n x).cfg = s.cfg := rfl
@[simp] theorem State.report_psw (s : State) (st : Status) (n : Half) (x : Xfer) : (s.report st n x).psw = s.psw := rfl
@[simp] theorem State.report_mem (s : State) (st : Status) (n : Half) (x : Xfer) : (s.report st n x).mem = s.mem := rfl
@[simp] theorem State.report_bits (s : State) (st : Status) (n : Half) (x : Xfer) : (s.report st n x).bits = s.bits := rfl
@[simp] theorem State.report_answers (s : State) (st : Status) (n : Half) (x : Xfer) : (s.report st n x).answers = s.answers := rfl
@[simp] theorem State.report_pc (s : State) (st : Status) (n : Half) (x : Xfer) : (s.report st n x).pc = s.pc := rfl
@[simp] theorem State.report_entry (s : State) (st : Status) (n : Half) (x : Xfer) : (s.report st n x).entry = s.entry := rfl
@[simp] theorem State.report_prog (s : State) (st : Status) (n : Half) (x : Xfer) : (s.report st n x).prog = s.prog := rfl
@[simp] theorem State.report_labels (s : State) (st : Status) (n : Half) (x : Xfer) : (s.report st n x).labels = s.labels := rfl
@[simp] theorem State.report_target (s : State) (st : Status) (n : Half) (x : Xfer) : (s.report st n x).target = s.target := rfl
@[simp] theorem State.report_status (s : State) (st : Status) (n : Half) (x : Xfer) : (s.report st n x).status = st := rfl
@[simp] theorem State.report_info (s : State) (st : Status) (n : Half) (x : Xfer) : (s.report st n x).info = n := rfl
@[simp] theorem State.report_xfer (s : State) (st : Status) (n : Half) (x : Xfer) : (s.report st n x).xfer = x := rfl
@[simp] theorem State.report_stopped (s : State) (st : Status) (n : Half) (x : Xfer) : (s.report st n x).stopped = s.stopped := rfl

/-! ### clearTarget -/

@[simp] theorem State.clearTarget_cfg (s : State) : s.clearTarget.cfg = s.cfg := rfl
@[simp] theorem State.clearTarget_psw (s : State) : s.clearTarget.psw = s.psw := rfl
@[simp] theorem State.clearTarget_mem (s : State) : s.clearTarget.mem = s.mem := rfl
@[simp] theorem State.clearTarget_bits (s : State) : s.clearTarget.bits = s.bits := rfl
@[simp] theorem State.clearTarget_answers (s : State) : s.clearTarget.answers = s.answers := rfl
@[simp] theorem State.clearTarget_pc (s : State) : s.clearTarget.pc = s.pc := rfl
@[simp] theorem State.clearTarget_entry (s : State) : s.clearTarget.entry = s.entry := rfl
@[simp] theorem State.clearTarget_prog (s : State) : s.clearTarget.prog = s.prog := rfl
@[simp] theorem State.clearTarget_labels (s : State) : s.clearTarget.labels = s.labels := rfl
@[simp] theorem State.clearTarget_target (s : State) : s.clearTarget.target = none := rfl
@[simp] theorem State.clearTarget_status (s : State) : s.clearTarget.status = s.status := rfl
@[simp] theorem State.clearTarget_info (s : State) : s.clearTarget.info = s.info := rfl
@[simp] theorem State.clearTarget_xfer (s : State) : s.clearTarget.xfer = s.xfer := rfl
@[simp] theorem State.clearTarget_stopped (s : State) : s.clearTarget.stopped = s.stopped := rfl

/-! ### loadWord -/

@[simp] theorem State.loadWord_cfg (s : State) (w : CW) : (s.loadWord w).cfg = s.cfg := rfl
@[simp] theorem State.loadWord_psw (s : State) (w : CW) : (s.loadWord w).psw = s.psw := rfl
@[simp] theorem State.loadWord_mem (s : State) (w : CW) : (s.loadWord w).mem = s.mem := rfl
@[simp] theorem State.loadWord_bits (s : State) (w : CW) : (s.loadWord w).bits = s.bits := rfl
@[simp] theorem State.loadWord_answers (s : State) (w : CW) : (s.loadWord w).answers = s.answers := rfl
@[simp] theorem State.loadWord_pc (s : State) (w : CW) : (s.loadWord w).pc = s.pc := rfl
@[simp] theorem State.loadWord_entry (s : State) (w : CW) : (s.loadWord w).entry = s.entry := rfl
@[simp] theorem State.loadWord_prog (s : State) (w : CW) : (s.loadWord w).prog = s.prog.put s.pc w := rfl
@[simp] theorem State.loadWord_labels (s : State) (w : CW) : (s.loadWord w).labels = s.labels := rfl
@[simp] theorem State.loadWord_target (s : State) (w : CW) : (s.loadWord w).target = s.target := rfl
@[simp] theorem State.loadWord_status (s : State) (w : CW) : (s.loadWord w).status = s.status := rfl
@[simp] theorem State.loadWord_info (s : State) (w : CW) : (s.loadWord w).info = s.info := rfl
@[simp] theorem State.loadWord_xfer (s : State) (w : CW) : (s.loadWord w).xfer = s.xfer := rfl
@[simp] theorem State.loadWord_stopped (s : State) (w : CW) : (s.loadWord w).stopped = false := rfl

/-! ### completed -/

@[simp] theorem State.completed_cfg (s : State) : s.completed.cfg = s.cfg := rfl
@[simp] theorem State.completed_psw (s : State) : s.completed.psw = s.psw := rfl
@[simp] theorem State.completed_mem (s : State) : s.completed.mem = s.mem := rfl
@[simp] theorem State.completed_bits (s : State) : s.completed.bits = s.bits := rfl
@[simp] theorem State.completed_answers (s : State) : s.completed.answers = s.answers := rfl
@[simp] theorem State.completed_pc (s : State) : s.completed.pc = s.pc := rfl
@[simp] theorem State.completed_entry (s : State) : s.completed.entry = s.entry := rfl
@[simp] theorem State.completed_prog (s : State) : s.completed.prog = s.prog := rfl
@[simp] theorem State.completed_labels (s : State) : s.completed.labels = s.labels := rfl
@[simp] theorem State.completed_target (s : State) : s.completed.target = s.target := rfl
@[simp] theorem State.completed_status (s : State) : s.completed.status = .ok := rfl
@[simp] theorem State.completed_info (s : State) : s.completed.info = 0 := rfl
@[simp] theorem State.completed_xfer (s : State) : s.completed.xfer = false := rfl
@[simp] theorem State.completed_stopped (s : State) : s.completed.stopped = s.stopped := rfl

/-! ### transferred -/

@[simp] theorem State.transferred_cfg (s : State) (a : Half) : (s.transferred a).cfg = s.cfg := rfl
@[simp] theorem State.transferred_psw (s : State) (a : Half) : (s.transferred a).psw = s.psw := rfl
@[simp] theorem State.transferred_mem (s : State) (a : Half) : (s.transferred a).mem = s.mem := rfl
@[simp] theorem State.transferred_bits (s : State) (a : Half) : (s.transferred a).bits = s.bits := rfl
@[simp] theorem State.transferred_answers (s : State) (a : Half) : (s.transferred a).answers = s.answers := rfl
@[simp] theorem State.transferred_pc (s : State) (a : Half) : (s.transferred a).pc = s.pc := rfl
@[simp] theorem State.transferred_entry (s : State) (a : Half) : (s.transferred a).entry = s.entry := rfl
@[simp] theorem State.transferred_prog (s : State) (a : Half) : (s.transferred a).prog = s.prog := rfl
@[simp] theorem State.transferred_labels (s : State) (a : Half) : (s.transferred a).labels = s.labels := rfl
@[simp] theorem State.transferred_target (s : State) (a : Half) : (s.transferred a).target = some a := rfl
@[simp] theorem State.transferred_status (s : State) (a : Half) : (s.transferred a).status = .ok := rfl
@[simp] theorem State.transferred_info (s : State) (a : Half) : (s.transferred a).info = 0 := rfl
@[simp] theorem State.transferred_xfer (s : State) (a : Half) : (s.transferred a).xfer = true := rfl
@[simp] theorem State.transferred_stopped (s : State) (a : Half) : (s.transferred a).stopped = s.stopped := rfl

/-! ### raised -/

@[simp] theorem State.raised_cfg (s : State) (st : Status) (n : Half) : (s.raised st n).cfg = s.cfg := rfl
@[simp] theorem State.raised_psw (s : State) (st : Status) (n : Half) : (s.raised st n).psw = s.psw := rfl
@[simp] theorem State.raised_mem (s : State) (st : Status) (n : Half) : (s.raised st n).mem = s.mem := rfl
@[simp] theorem State.raised_bits (s : State) (st : Status) (n : Half) : (s.raised st n).bits = s.bits := rfl
@[simp] theorem State.raised_answers (s : State) (st : Status) (n : Half) : (s.raised st n).answers = s.answers := rfl
@[simp] theorem State.raised_pc (s : State) (st : Status) (n : Half) : (s.raised st n).pc = s.pc := rfl
@[simp] theorem State.raised_entry (s : State) (st : Status) (n : Half) : (s.raised st n).entry = s.entry := rfl
@[simp] theorem State.raised_prog (s : State) (st : Status) (n : Half) : (s.raised st n).prog = s.prog := rfl
@[simp] theorem State.raised_labels (s : State) (st : Status) (n : Half) : (s.raised st n).labels = s.labels := rfl
@[simp] theorem State.raised_target (s : State) (st : Status) (n : Half) : (s.raised st n).target = s.target := rfl
@[simp] theorem State.raised_status (s : State) (st : Status) (n : Half) : (s.raised st n).status = st := rfl
@[simp] theorem State.raised_info (s : State) (st : Status) (n : Half) : (s.raised st n).info = n := rfl
@[simp] theorem State.raised_xfer (s : State) (st : Status) (n : Half) : (s.raised st n).xfer = false := rfl
@[simp] theorem State.raised_stopped (s : State) (st : Status) (n : Half) : (s.raised st n).stopped = s.stopped := rfl

/-! ### advance -/

/-- All that the dispatcher's advance can do (R281). -/
theorem State.advance_cases (s : State) :
    (s.status ≠ .ok ∧ s.advance = { s with stopped := true }) ∨
    (s.status = .ok ∧ s.xfer = true ∧ s.advance = { s with pc := s.target.getD s.pc }) ∨
    (s.status = .ok ∧ s.xfer = false ∧ s.advance = { s with pc := s.pc + 1 }) := by
  unfold State.advance
  split
  · next h => exact .inl ⟨h, rfl⟩
  · next h =>
    have hs : s.status = .ok := by simpa using h
    split
    · next hx => exact .inr (.inl ⟨hs, hx, rfl⟩)
    · next hx => exact .inr (.inr ⟨hs, by simpa using hx, rfl⟩)

@[simp] theorem State.advance_cfg (s : State) : s.advance.cfg = s.cfg := by
  unfold State.advance; split <;> [rfl; (split <;> rfl)]
@[simp] theorem State.advance_psw (s : State) : s.advance.psw = s.psw := by
  unfold State.advance; split <;> [rfl; (split <;> rfl)]
@[simp] theorem State.advance_mem (s : State) : s.advance.mem = s.mem := by
  unfold State.advance; split <;> [rfl; (split <;> rfl)]
@[simp] theorem State.advance_bits (s : State) : s.advance.bits = s.bits := by
  unfold State.advance; split <;> [rfl; (split <;> rfl)]
@[simp] theorem State.advance_answers (s : State) : s.advance.answers = s.answers := by
  unfold State.advance; split <;> [rfl; (split <;> rfl)]
@[simp] theorem State.advance_entry (s : State) : s.advance.entry = s.entry := by
  unfold State.advance; split <;> [rfl; (split <;> rfl)]
@[simp] theorem State.advance_prog (s : State) : s.advance.prog = s.prog := by
  unfold State.advance; split <;> [rfl; (split <;> rfl)]
@[simp] theorem State.advance_labels (s : State) : s.advance.labels = s.labels := by
  unfold State.advance; split <;> [rfl; (split <;> rfl)]
@[simp] theorem State.advance_target (s : State) : s.advance.target = s.target := by
  unfold State.advance; split <;> [rfl; (split <;> rfl)]
@[simp] theorem State.advance_status (s : State) : s.advance.status = s.status := by
  unfold State.advance; split <;> [rfl; (split <;> rfl)]
@[simp] theorem State.advance_info (s : State) : s.advance.info = s.info := by
  unfold State.advance; split <;> [rfl; (split <;> rfl)]
@[simp] theorem State.advance_xfer (s : State) : s.advance.xfer = s.xfer := by
  unfold State.advance; split <;> [rfl; (split <;> rfl)]

/-! ### What the collaborators answer in an updated state -/

@[simp] theorem State.memServes_answered (s : State) (a : Byte) : s.answered.memServes a = s.memServes a := rfl

@[simp] theorem State.memServes_wrote (s : State) (a v b : Byte) : (s.wrote a v).memServes b = s.memServes b := rfl

@[simp] theorem State.memAccepts_wrote (s : State) (a v b : Byte) :
    (s.wrote a v).memAccepts b = s.answered.memAccepts b := rfl

/-- With no answer left, a write request fails only by its address. -/
theorem State.nextAnswer_of_nil {s : State} (h : s.answers = []) : s.nextAnswer = true := by
  rw [State.nextAnswer, h]; rfl

/-! ### Using up answers -/

theorem State.onlyUsesAnswers_refl (s : State) : s.onlyUsesAnswers s := ⟨0, rfl⟩

theorem State.onlyUsesAnswers_answered (s : State) : s.onlyUsesAnswers s.answered := ⟨1, (List.drop_one).symm⟩

theorem State.onlyUsesAnswers_trans {s t u : State} (h : s.onlyUsesAnswers t) (h' : t.onlyUsesAnswers u) :
    s.onlyUsesAnswers u := by
  obtain ⟨m, hm⟩ := h
  obtain ⟨n, hn⟩ := h'
  exact ⟨m + n, by rw [hn, hm, List.drop_drop]⟩

/-! ### Reads after a report and after a load -/

@[simp] theorem State.memServes_report (s : State) (st : Status) (n : Half) (x : Xfer) (a : Byte) :
    (s.report st n x).memServes a = s.memServes a := rfl

@[simp] theorem State.fetch_loadWord (s : State) (w : CW) : (s.loadWord w).fetch = some w :=
  Store.find?_insert_self s.prog s.pc.toNat w

end Sys2Proof.Machine
end

