-- ==== Sys2Proof/Laws/Ops.lean ====
section
/-! SUPPORT. What the port requests, the resolver and the Flag Unit can do, each said once; how a sequence of
statements runs; and `Cmd.Within`, which lifts a relation between states from single statements to whole commands,
failing runs included. -/

namespace Sys2Proof.Machine

variable {α β : Type}

/-! ### Sequences of statements -/

theorem Cmd.run_bind (c : Cmd α) (f : α → Cmd β) (s : State) :
    (c >>= f).run s = match c.run s with
      | .ok a t => (f a).run t
      | .error e t => .error e t := by
  show EStateM.bind c f s = match c s with | .ok a t => f a t | .error e t => .error e t
  unfold EStateM.bind
  cases c s <;> rfl

theorem Cmd.run_bind_ok {c : Cmd α} {f : α → Cmd β} {s t : State} {a : α} (h : c.run s = .ok a t) :
    (c >>= f).run s = (f a).run t := by
  rw [Cmd.run_bind, h]

theorem Cmd.run_bind_error {c : Cmd α} {f : α → Cmd β} {s t : State} {e : Failure} (h : c.run s = .error e t) :
    (c >>= f).run s = .error e t := by
  rw [Cmd.run_bind, h]

@[simp] theorem Cmd.run_pure (a : α) (s : State) : (pure a : Cmd α).run s = .ok a s := rfl

@[simp] theorem run_raise (st : Status) (n : Half) (s : State) :
    (raise st n : Cmd α).run s = .error ⟨st, n⟩ s := rfl

@[simp] theorem run_finish (s : State) : finish.run s = .ok false s := rfl

@[simp] theorem run_finishJumped (s : State) : finishJumped.run s = .ok true s := rfl

@[simp] theorem run_getPsw (s : State) : getPsw.run s = .ok s.psw s := rfl

@[simp] theorem run_getConfig (s : State) : getConfig.run s = .ok s.cfg s := rfl

@[simp] theorem run_writeCy (x : Bool) (s : State) :
    (writeCy x).run s = .ok () { s with psw := { s.psw with cy := x } } := rfl

@[simp] theorem run_writeOv (x : Bool) (s : State) :
    (writeOv x).run s = .ok () { s with psw := { s.psw with ov := x } } := rfl

@[simp] theorem run_compute (a b : Byte) (m : ComputeMode) (en : FlagEnables) (s : State) :
    (compute a b m en).run s =
      .ok (computeResult a b m) { s with psw := computePsw s.cfg.subCyRule a b m en s.psw } := rfl

@[simp] theorem run_logicFlags (r : Byte) (s : State) :
    (logicFlags r).run s = .ok () { s with psw := logicPsw r s.psw } := rfl

theorem runCommand_ok {c : Cmd Xfer} {s t : State} {x : Xfer} (h : c.run s = .ok x t) :
    runCommand c s = .next (t.report .ok 0 x) := by
  rw [runCommand, h]

theorem runCommand_error {c : Cmd Xfer} {s t : State} {e : Failure} (h : c.run s = .error e t) :
    runCommand c s = .next (t.raised e.status e.info) := by
  rw [runCommand, h]; rfl

/-- A command always ends with one status: the core has no trap (R260, R262). -/
theorem runCommand_next (c : Cmd Xfer) (s : State) : ∃ t, runCommand c s = .next t := by
  cases h : c.run s with
  | ok x t => exact ⟨_, runCommand_ok h⟩
  | error e t => exact ⟨_, runCommand_error h⟩

/-! ### Port requests -/

theorem memRead_ok {s : State} {a : Byte} (h : s.memServes a = true) :
    (memRead a).run s = .ok (s.mem.read a) s := if_pos h

theorem memRead_fail {s : State} {a : Byte} (h : s.memServes a = false) :
    (memRead a).run s = .error ⟨.memReadFail, zext16 a⟩ s := if_neg (by simp [h])

theorem memWrite_ok {s : State} {a : Byte} (v : Byte) (h : s.memAccepts a = true) :
    (memWrite a v).run s = .ok () (s.wrote a v) := if_pos h

theorem memWrite_fail {s : State} {a : Byte} (v : Byte) (h : s.memAccepts a = false) :
    (memWrite a v).run s = .error ⟨.memWriteFail, zext16 a⟩ s.answered := if_neg (by simp [h])

theorem bitRead_ok {s : State} {b : Byte} (h : s.bitServes b = true) :
    (bitRead b).run s = .ok (s.bits.read b) s := if_pos h

theorem bitRead_fail {s : State} {b : Byte} (h : s.bitServes b = false) :
    (bitRead b).run s = .error ⟨.bitReadFail, zext16 b⟩ s := if_neg (by simp [h])

theorem bitWrite_ok {s : State} {b : Byte} (x : Bool) (h : s.bitAccepts b = true) :
    (bitWrite b x).run s = .ok () (s.wroteBit b x) := if_pos h

theorem bitWrite_fail {s : State} {b : Byte} (x : Bool) (h : s.bitAccepts b = false) :
    (bitWrite b x).run s = .error ⟨.bitWriteFail, zext16 b⟩ s.answered := if_neg (by simp [h])

theorem pcSet_ok {s : State} {t : Half} (h : s.pcAccepts t = true) :
    (pcSet t).run s = .ok () (s.answered.noted t) := if_pos h

theorem pcSet_fail {s : State} {t : Half} (h : s.pcAccepts t = false) :
    (pcSet t).run s = .error ⟨.pcWriteFail, t⟩ s.answered := if_neg (by simp [h])

theorem jump_ok {s : State} {l t : Half} (h : s.labels.address? l = some t) :
    (jump l).run s = .ok () (s.noted t) := by
  simp [jump, EStateM.run, h]

theorem jump_fail {s : State} {l : Half} (h : s.labels.address? l = none) :
    (jump l).run s = .error ⟨.jumpFail, l⟩ s := by
  simp [jump, EStateM.run, raise, h]

theorem run_branch_false (l : Half) (s : State) : (branch false l).run s = .ok false s := rfl

theorem run_branch_true_ok {s : State} {l t : Half} (h : s.labels.address? l = some t) :
    (branch true l).run s = .ok true (s.noted t) := by
  show (jump l >>= fun _ => finishJumped).run s = _
  rw [Cmd.run_bind_ok (jump_ok h)]; rfl

theorem run_branch_true_fail {s : State} {l : Half} (h : s.labels.address? l = none) :
    (branch true l).run s = .error ⟨.jumpFail, l⟩ s := by
  show (jump l >>= fun _ => finishJumped).run s = _
  rw [Cmd.run_bind_error (jump_fail h)]

/-- How every branch command ends (R220). -/
theorem runCommand_branch (c : Bool) (l : Half) (s : State) :
    runCommand (branch c l) s = .next (s.branched c l) := by
  cases c with
  | false => exact runCommand_ok (run_branch_false l s)
  | true =>
    cases h : s.labels.address? l with
    | none => rw [runCommand_error (run_branch_true_fail h)]; simp [State.branched, h]
    | some t => rw [runCommand_ok (run_branch_true_ok h)]; simp [State.branched, State.transferred, h]

/-! ### Reads that the memory collaborator may not serve -/

@[simp] theorem State.firstUnserved_nil (s : State) : s.firstUnserved [] = none := rfl

theorem State.firstUnserved_cons (s : State) (a : Byte) (l : List Byte) :
    s.firstUnserved (a :: l) = if s.memServes a = true then s.firstUnserved l else some a := by
  unfold State.firstUnserved
  cases h : s.memServes a <;> simp [h]

theorem State.firstUnserved_append (s : State) (l l' : List Byte) :
    s.firstUnserved (l ++ l') = (s.firstUnserved l).or (s.firstUnserved l') := by
  unfold State.firstUnserved; exact List.find?_append

theorem memRead_eq (s : State) (a : Byte) :
    (memRead a).run s = match s.firstUnserved [a] with
      | none => .ok (s.mem.read a) s
      | some b => .error ⟨.memReadFail, zext16 b⟩ s := by
  rw [State.firstUnserved_cons]
  cases h : s.memServes a with
  | true => rw [memRead_ok h]; rfl
  | false => rw [memRead_fail h]; rfl

/-! ### The resolver -/

theorem resolveDst_eq (s : State) (d : Dst) :
    (resolveDst d).run s = match s.firstUnserved (s.dstReads d) with
      | none => .ok (s.dstAddr d) s
      | some b => .error ⟨.memReadFail, zext16 b⟩ s := by
  cases d with
  | direct a => rfl
  | indirect p => exact memRead_eq s p

theorem resolveSrc_eq (s : State) (v : Src) :
    (resolveSrc v).run s = match s.firstUnserved (s.srcReads v) with
      | none => .ok (s.srcValue v) s
      | some b => .error ⟨.memReadFail, zext16 b⟩ s := by
  cases v with
  | direct a => exact memRead_eq s a
  | indirect p =>
    show (memRead p >>= fun a => memRead a).run s = _
    rw [State.srcReads, State.firstUnserved_cons]
    cases h : s.memServes p with
    | true => rw [Cmd.run_bind_ok (memRead_ok h), memRead_eq]; rfl
    | false => rw [Cmd.run_bind_error (memRead_fail h)]; rfl
  | immediate x => rfl

theorem resolveDst_eq_ok {s t : State} {d : Dst} {ea : Byte} (h : (resolveDst d).run s = .ok ea t) :
    s.firstUnserved (s.dstReads d) = none ∧ ea = s.dstAddr d ∧ t = s := by
  rw [resolveDst_eq] at h
  cases hu : s.firstUnserved (s.dstReads d) with
  | none => rw [hu] at h; cases h; exact ⟨rfl, rfl, rfl⟩
  | some b => rw [hu] at h; cases h

/-! ### Lifting a relation to whole commands -/

/-- The state a piece of a command leaves, whether it completed or raised. -/
def Cmd.after (r : EStateM.Result Failure State α) : State :=
  match r with
  | .ok _ t => t
  | .error _ t => t

/-- From every state, the piece leaves a state related to it. -/
def Cmd.Within (R : State → State → Prop) (c : Cmd α) : Prop := ∀ s, R s (Cmd.after (c.run s))

theorem Cmd.within_bind {R : State → State → Prop} (htrans : ∀ s t u, R s t → R t u → R s u)
    {c : Cmd α} {f : α → Cmd β} (hc : Cmd.Within R c) (hf : ∀ a, Cmd.Within R (f a)) :
    Cmd.Within R (c >>= f) := by
  intro s
  have h := hc s
  rw [Cmd.run_bind]
  cases hr : c.run s with
  | ok a t => rw [hr] at h; exact htrans s t _ h (hf a t)
  | error e t => rw [hr] at h; exact h

/-- A piece that never changes the state. -/
theorem Cmd.within_of_same {R : State → State → Prop} (hrefl : ∀ s, R s s) {c : Cmd α}
    (hc : ∀ s, Cmd.after (c.run s) = s) : Cmd.Within R c := fun s => by rw [hc s]; exact hrefl s

theorem memRead_same (a : Byte) (s : State) : Cmd.after ((memRead a).run s) = s := by
  cases h : s.memServes a with
  | true => rw [memRead_ok h]; rfl
  | false => rw [memRead_fail h]; rfl

theorem bitRead_same (b : Byte) (s : State) : Cmd.after ((bitRead b).run s) = s := by
  cases h : s.bitServes b with
  | true => rw [bitRead_ok h]; rfl
  | false => rw [bitRead_fail h]; rfl

theorem resolveDst_same (d : Dst) (s : State) : Cmd.after ((resolveDst d).run s) = s := by
  cases d with
  | direct a => rfl
  | indirect p => exact memRead_same p s

theorem resolveSrc_same (v : Src) (s : State) : Cmd.after ((resolveSrc v).run s) = s := by
  cases v with
  | direct a => exact memRead_same a s
  | indirect p =>
    show Cmd.after ((memRead p >>= fun a => memRead a).run s) = s
    cases h : s.memServes p with
    | true => rw [Cmd.run_bind_ok (memRead_ok h)]; exact memRead_same _ s
    | false => rw [Cmd.run_bind_error (memRead_fail h)]; rfl
  | immediate x => rfl

theorem memWrite_after (a v : Byte) (s : State) :
    Cmd.after ((memWrite a v).run s) = s.answered ∨ Cmd.after ((memWrite a v).run s) = s.wrote a v := by
  cases h : s.memAccepts a with
  | true => rw [memWrite_ok v h]; exact .inr rfl
  | false => rw [memWrite_fail v h]; exact .inl rfl

theorem bitWrite_after (b : Byte) (x : Bool) (s : State) :
    Cmd.after ((bitWrite b x).run s) = s.answered ∨ Cmd.after ((bitWrite b x).run s) = s.wroteBit b x := by
  cases h : s.bitAccepts b with
  | true => rw [bitWrite_ok x h]; exact .inr rfl
  | false => rw [bitWrite_fail x h]; exact .inl rfl

theorem pcSet_after (t : Half) (s : State) :
    Cmd.after ((pcSet t).run s) = s.answered ∨ Cmd.after ((pcSet t).run s) = s.answered.noted t := by
  cases h : s.pcAccepts t with
  | true => rw [pcSet_ok h]; exact .inr rfl
  | false => rw [pcSet_fail h]; exact .inl rfl

theorem branch_after (c : Bool) (l : Half) (s : State) :
    Cmd.after ((branch c l).run s) = s ∨ ∃ t, Cmd.after ((branch c l).run s) = s.noted t := by
  cases c with
  | false => exact .inl rfl
  | true =>
    cases h : s.labels.address? l with
    | none => rw [run_branch_true_fail h]; exact .inl rfl
    | some t => rw [run_branch_true_ok h]; exact .inr ⟨t, rfl⟩

/-- The next state of a command is the state its statements left, with a status reported. -/
theorem runCommand_eq_next {c : Cmd Xfer} {s t : State} (h : runCommand c s = .next t) :
    ∃ st n x, t = (Cmd.after (c.run s)).report st n x := by
  cases hr : c.run s with
  | ok x u =>
    rw [runCommand_ok hr] at h
    exact ⟨_, _, _, (Host.Outcome.next.inj h).symm⟩
  | error e u =>
    rw [runCommand_error hr] at h
    exact ⟨_, _, _, (Host.Outcome.next.inj h).symm⟩

end Sys2Proof.Machine
end

