-- ==== Sys2Proof/Laws/Exec.lean ====
section
/-! SUPPORT. What `exec` runs for each mnemonic, over its operands, and how the reads a command starts with compose. -/

namespace Sys2Proof.Machine

variable {α : Type}

/-! ### exec, mnemonic by mnemonic -/

/-- The statements `exec` runs for an instruction. -/
def commandOf (i : Instr) : Cmd Xfer :=
  match i with
  | .movDirDir dst src => movCommand (.direct dst) (.direct src)
  | .movDirInd dst srcPtr => movCommand (.direct dst) (.indirect srcPtr)
  | .movDirImm dst imm => movCommand (.direct dst) (.immediate imm)
  | .movIndDir dstPtr src => movCommand (.indirect dstPtr) (.direct src)
  | .movIndInd dstPtr srcPtr => movCommand (.indirect dstPtr) (.indirect srcPtr)
  | .movIndImm dstPtr imm => movCommand (.indirect dstPtr) (.immediate imm)
  | .addDirDir dst src => addCommand (.direct dst) (.direct src)
  | .addDirInd dst srcPtr => addCommand (.direct dst) (.indirect srcPtr)
  | .addDirImm dst imm => addCommand (.direct dst) (.immediate imm)
  | .addIndDir dstPtr src => addCommand (.indirect dstPtr) (.direct src)
  | .addIndInd dstPtr srcPtr => addCommand (.indirect dstPtr) (.indirect srcPtr)
  | .addIndImm dstPtr imm => addCommand (.indirect dstPtr) (.immediate imm)
  | .subbDirDir dst src => subbCommand (.direct dst) (.direct src)
  | .subbDirInd dst srcPtr => subbCommand (.direct dst) (.indirect srcPtr)
  | .subbDirImm dst imm => subbCommand (.direct dst) (.immediate imm)
  | .subbIndDir dstPtr src => subbCommand (.indirect dstPtr) (.direct src)
  | .subbIndInd dstPtr srcPtr => subbCommand (.indirect dstPtr) (.indirect srcPtr)
  | .subbIndImm dstPtr imm => subbCommand (.indirect dstPtr) (.immediate imm)
  | .anlDirDir dst src => anlCommand (.direct dst) (.direct src)
  | .anlDirInd dst srcPtr => anlCommand (.direct dst) (.indirect srcPtr)
  | .anlDirImm dst imm => anlCommand (.direct dst) (.immediate imm)
  | .anlIndDir dstPtr src => anlCommand (.indirect dstPtr) (.direct src)
  | .anlIndInd dstPtr srcPtr => anlCommand (.indirect dstPtr) (.indirect srcPtr)
  | .anlIndImm dstPtr imm => anlCommand (.indirect dstPtr) (.immediate imm)
  | .orlDirDir dst src => orlCommand (.direct dst) (.direct src)
  | .orlDirInd dst srcPtr => orlCommand (.direct dst) (.indirect srcPtr)
  | .orlDirImm dst imm => orlCommand (.direct dst) (.immediate imm)
  | .orlIndDir dstPtr src => orlCommand (.indirect dstPtr) (.direct src)
  | .orlIndInd dstPtr srcPtr => orlCommand (.indirect dstPtr) (.indirect srcPtr)
  | .orlIndImm dstPtr imm => orlCommand (.indirect dstPtr) (.immediate imm)
  | .incDir op => incCommand (.direct op)
  | .incInd opPtr => incCommand (.indirect opPtr)
  | .decDir op => decCommand (.direct op)
  | .decInd opPtr => decCommand (.indirect opPtr)
  | .rlDir op => rlCommand (.direct op)
  | .rlInd opPtr => rlCommand (.indirect opPtr)
  | .rrDir op => rrCommand (.direct op)
  | .rrInd opPtr => rrCommand (.indirect opPtr)
  | .daDir op => daCommand (.direct op)
  | .daInd opPtr => daCommand (.indirect opPtr)
  | .org addr => orgCommand addr
  | .mul => mulCommand
  | .setb bit => setbCommand bit
  | .clr bit => clrCommand bit
  | .cpl bit => cplCommand bit
  | .jz label => jzCommand label
  | .jnz label => jnzCommand label
  | .jc label => jcCommand label
  | .jnc label => jncCommand label
  | .djnzDir op label => djnzCommand (.direct op) label
  | .djnzInd opPtr label => djnzCommand (.indirect opPtr) label
  | .djnzAcc label => djnzAccCommand label
  | .cjneDirDir fst snd label => cjneCommand (.direct fst) (.direct snd) label
  | .cjneDirInd fst sndPtr label => cjneCommand (.direct fst) (.indirect sndPtr) label
  | .cjneDirImm fst imm label => cjneCommand (.direct fst) (.immediate imm) label
  | .cjneIndDir fstPtr snd label => cjneCommand (.indirect fstPtr) (.direct snd) label
  | .cjneIndInd fstPtr sndPtr label => cjneCommand (.indirect fstPtr) (.indirect sndPtr) label
  | .cjneIndImm fstPtr imm label => cjneCommand (.indirect fstPtr) (.immediate imm) label
  | .jb => notImplementedCommand 0x26
  | .jnb => notImplementedCommand 0x27

/-- Every instruction is run by `runCommand`: a fact about `exec` follows from one about every command. -/
theorem exec_eq (i : Instr) (s : State) : exec i s = runCommand (commandOf i) s := by
  cases i <;> rfl

theorem exec_mov (d : Dst) (v : Src) (s : State) : exec (.mov d v) s = runCommand (movCommand d v) s := by
  cases d <;> cases v <;> rfl

theorem exec_add (d : Dst) (v : Src) (s : State) : exec (.add d v) s = runCommand (addCommand d v) s := by
  cases d <;> cases v <;> rfl

theorem exec_subb (d : Dst) (v : Src) (s : State) : exec (.subb d v) s = runCommand (subbCommand d v) s := by
  cases d <;> cases v <;> rfl

theorem exec_anl (d : Dst) (v : Src) (s : State) : exec (.anl d v) s = runCommand (anlCommand d v) s := by
  cases d <;> cases v <;> rfl

theorem exec_orl (d : Dst) (v : Src) (s : State) : exec (.orl d v) s = runCommand (orlCommand d v) s := by
  cases d <;> cases v <;> rfl

theorem exec_inc (d : Dst) (s : State) : exec (.inc d) s = runCommand (incCommand d) s := by
  cases d <;> rfl

theorem exec_dec (d : Dst) (s : State) : exec (.dec d) s = runCommand (decCommand d) s := by
  cases d <;> rfl

theorem exec_rl (d : Dst) (s : State) : exec (.rl d) s = runCommand (rlCommand d) s := by
  cases d <;> rfl

theorem exec_rr (d : Dst) (s : State) : exec (.rr d) s = runCommand (rrCommand d) s := by
  cases d <;> rfl

theorem exec_da (d : Dst) (s : State) : exec (.da d) s = runCommand (daCommand d) s := by
  cases d <;> rfl

theorem exec_djnz (d : Dst) (l : Half) (s : State) : exec (.djnz d l) s = runCommand (djnzCommand d l) s := by
  cases d <;> rfl

theorem exec_cjne (d : Dst) (v : Src) (l : Half) (s : State) :
    exec (.cjne d v l) s = runCommand (cjneCommand d v l) s := by
  cases d <;> cases v <;> rfl

/-! ### Reads and writes in sequence -/

theorem run_bind_resolveDst (d : Dst) (f : Byte → Cmd α) (s : State) :
    (resolveDst d >>= f).run s = match s.firstUnserved (s.dstReads d) with
      | none => (f (s.dstAddr d)).run s
      | some b => .error ⟨.memReadFail, zext16 b⟩ s := by
  rw [Cmd.run_bind, resolveDst_eq]
  cases s.firstUnserved (s.dstReads d) <;> rfl

theorem run_bind_resolveSrc (v : Src) (f : Byte → Cmd α) (s : State) :
    (resolveSrc v >>= f).run s = match s.firstUnserved (s.srcReads v) with
      | none => (f (s.srcValue v)).run s
      | some b => .error ⟨.memReadFail, zext16 b⟩ s := by
  rw [Cmd.run_bind, resolveSrc_eq]
  cases s.firstUnserved (s.srcReads v) <;> rfl

theorem run_bind_memRead (a : Byte) (f : Byte → Cmd α) (s : State) :
    (memRead a >>= f).run s = match s.firstUnserved [a] with
      | none => (f (s.mem.read a)).run s
      | some b => .error ⟨.memReadFail, zext16 b⟩ s := by
  rw [Cmd.run_bind, memRead_eq]
  cases s.firstUnserved [a] <;> rfl

theorem run_bind_memWrite (a v : Byte) (f : Unit → Cmd α) (s : State) :
    (memWrite a v >>= f).run s =
      if s.memAccepts a = true then (f ()).run (s.wrote a v)
      else .error ⟨.memWriteFail, zext16 a⟩ s.answered := by
  cases h : s.memAccepts a with
  | true => rw [Cmd.run_bind_ok (memWrite_ok v h)]; rfl
  | false => rw [Cmd.run_bind_error (memWrite_fail v h)]; rfl

/-- Resolve a destination, then a source: the operands of `mov`. -/
theorem run_bind_dst_src (d : Dst) (v : Src) (f : Byte → Byte → Cmd α) (s : State) :
    (resolveDst d >>= fun ea => resolveSrc v >>= fun y => f ea y).run s =
      match s.firstUnserved (s.dstReads d ++ s.srcReads v) with
      | none => (f (s.dstAddr d) (s.srcValue v)).run s
      | some b => .error ⟨.memReadFail, zext16 b⟩ s := by
  rw [State.firstUnserved_append, run_bind_resolveDst]
  cases s.firstUnserved (s.dstReads d) with
  | some b => rfl
  | none => simp only [run_bind_resolveSrc, Option.none_or]

/-- Resolve a destination, then a source, then read the destination (R61): the operands of `add`, `subb`, `anl`, `orl`
and `cjne`. -/
theorem run_bind_operands (d : Dst) (v : Src) (f : Byte → Byte → Byte → Cmd α) (s : State) :
    (resolveDst d >>= fun ea => resolveSrc v >>= fun y => memRead ea >>= fun x => f ea y x).run s =
      match s.firstUnserved (s.dstReads d ++ s.srcReads v ++ [s.dstAddr d]) with
      | none => (f (s.dstAddr d) (s.srcValue v) (s.dstValue d)).run s
      | some b => .error ⟨.memReadFail, zext16 b⟩ s := by
  rw [State.firstUnserved_append, run_bind_dst_src d v (fun ea y => memRead ea >>= fun x => f ea y x)]
  cases s.firstUnserved (s.dstReads d ++ s.srcReads v) with
  | some b => rfl
  | none => simp only [run_bind_memRead, Option.none_or]; rfl

/-- Resolve a destination and read it: the operand of the one-operand commands and of `djnz`. -/
theorem run_bind_operand (d : Dst) (f : Byte → Byte → Cmd α) (s : State) :
    (resolveDst d >>= fun ea => memRead ea >>= fun x => f ea x).run s =
      match s.firstUnserved (s.dstReads d ++ [s.dstAddr d]) with
      | none => (f (s.dstAddr d) (s.dstValue d)).run s
      | some b => .error ⟨.memReadFail, zext16 b⟩ s := by
  rw [State.firstUnserved_append, run_bind_resolveDst]
  cases s.firstUnserved (s.dstReads d) with
  | some b => rfl
  | none => simp only [run_bind_memRead, Option.none_or]; rfl

/-- Write a result and finish: how every command that stores one byte last ends. -/
theorem runCommand_memWrite_finish (a v : Byte) (s : State) :
    runCommand (memWrite a v >>= fun _ => finish) s =
      .next (if s.memAccepts a = true then (s.wrote a v).completed
        else s.answered.raised .memWriteFail (zext16 a)) := by
  cases h : s.memAccepts a with
  | true => exact runCommand_ok (Cmd.run_bind_ok (memWrite_ok v h))
  | false => exact runCommand_error (Cmd.run_bind_error (memWrite_fail v h))

end Sys2Proof.Machine
end

