-- ==== Sys2Proof/Laws/Flags.lean ====
section
/-! SUPPORT. What the Flag Unit and the byte helpers compute, as arithmetic on bytes: each function's result said once,
so that no later proof unfolds it. -/

namespace Sys2Proof.Machine

/-- The result of an ADD compute is the sum modulo 256. -/
theorem computeResult_add (a b : Byte) : computeResult a b .add = a + b := by
  apply BitVec.eq_of_toNat_eq
  show (if a.toNat + b.toNat > 255 then a.toNat + b.toNat - 256 else a.toNat + b.toNat) % 256 = (a + b).toNat
  rw [BitVec.toNat_add]
  have := a.isLt
  have := b.isLt
  split <;> omega

/-- The result of a SUB compute is the difference modulo 256 (R125). -/
theorem computeResult_sub (a b : Byte) : computeResult a b .sub = a - b := by
  apply BitVec.eq_of_toNat_eq
  simp only [computeResult, addend, neg8, BitVec.toNat_ofNat, BitVec.toNat_sub, BitVec.toNat_add, BitVec.toNat_not]
  have := a.isLt
  have := b.isLt
  simp
  split <;> omega

/-- CY of a SUB compute under LITERAL_OR is set exactly when the second operand is not zero. -/
theorem computeCarry_literalOr (a b : Byte) : computeCarry .literalOr a b .sub = (b != 0) := by
  simp only [computeCarry, subCarry, addCarry, addend, neg8]
  have := a.isLt
  have := b.isLt
  by_cases h : b = 0
  · subst h; simp; omega
  · have hb : b.toNat ≠ 0 := fun e => h (BitVec.eq_of_toNat_eq e)
    rw [bne_iff_ne.mpr h]
    simp [BitVec.toNat_add]
    omega

/-- PSW after the compute of `add`: every flag enabled. -/
theorem computePsw_add_all (rule : SubCyRule) (a b : Byte) (psw : Psw) :
    computePsw rule a b .add .all psw = addFlags a b := by
  simp only [computePsw, FlagEnables.all, addFlags, computeResult_add, nibbleCarry, signBit, if_true, computeCarry,
    addCarry, addend]
  trivial

/-- PSW after the compute of `subb`: every flag enabled. -/
theorem computePsw_sub_all (rule : SubCyRule) (a b : Byte) (psw : Psw) :
    computePsw rule a b .sub .all psw = subbFlags rule a b := by
  cases rule with
  | borrow =>
    simp only [computePsw, FlagEnables.all, subbFlags, computeResult_sub, nibbleCarry, signBit, if_true, computeCarry,
      subCarry]
  | literalOr =>
    simp only [computePsw, FlagEnables.all, subbFlags, computeResult_sub, nibbleCarry, signBit, if_true,
      computeCarry_literalOr]

/-- A compute with every flag disabled leaves PSW alone. -/
@[simp] theorem computePsw_none (rule : SubCyRule) (a b : Byte) (m : ComputeMode) (psw : Psw) :
    computePsw rule a b m .none psw = psw := rfl

theorem ror8_rol8 : ∀ v : Byte, ror8 (rol8 v) = v := by decide

/-- p[7:0] of a product. -/
theorem lowByte_product (a b : Byte) : lowByte (product a b) = BitVec.ofNat 8 (a.toNat * b.toNat % 256) := by
  apply BitVec.eq_of_toNat_eq
  simp [lowByte, product, BitVec.extractLsb'_toNat]

/-- A product of two bytes fits 16 bits. -/
theorem toNat_mul_lt (a b : Byte) : a.toNat * b.toNat < 65536 := by
  have ha := a.isLt
  have hb := b.isLt
  exact Nat.lt_of_le_of_lt (Nat.mul_le_mul (Nat.le_of_lt_succ ha) (Nat.le_of_lt_succ hb)) (by decide)

/-- p[15:8] of a product. -/
theorem highByte_product (a b : Byte) : highByte (product a b) = BitVec.ofNat 8 (a.toNat * b.toNat / 256) := by
  apply BitVec.eq_of_toNat_eq
  simp [highByte, product, BitVec.extractLsb'_toNat, Nat.shiftRight_eq_div_pow, Nat.mod_eq_of_lt (toNat_mul_lt a b)]

/-- OV of `mul`: the high byte is not zero. -/
theorem highByte_product_ne_zero (a b : Byte) :
    (highByte (product a b) != 0) = decide (a.toNat * b.toNat / 256 ≠ 0) := by
  have h := toNat_mul_lt a b
  rw [highByte_product]
  generalize a.toNat * b.toNat = p at *
  have e : BitVec.ofNat 8 (p / 256) = 0#8 ↔ p / 256 = 0 := by
    rw [← BitVec.toNat_inj]; simp; omega
  rw [Bool.eq_iff_iff]
  simp [e]

end Sys2Proof.Machine
end

