-- ==== Sys2Proof/Laws/Frame.lean ====
section
/-! SUPPORT. Which states each statement of a command can leave, for any relation between states that every command
composes: the lemmas that lift a fact about single statements to whole commands and to `exec`. -/

namespace Sys2Proof.Machine

variable {α β : Type}

/-- A relation between a state and a later one that holds of no change and composes. -/
structure Composes (R : State → State → Prop) : Prop where
  refl : ∀ s, R s s
  trans : ∀ s t u, R s t → R t u → R s u

theorem sameElsewhere_composes : Composes State.sameElsewhere where
  refl s := ⟨rfl, rfl, rfl, rfl, rfl, rfl, s.onlyUsesAnswers_refl⟩
  trans := by
    rintro s t u ⟨a, b, c, d, e, f, g⟩ ⟨a', b', c', d', e', f', g'⟩
    exact ⟨a'.trans a, b'.trans b, c'.trans c, d'.trans d, e'.trans e, f'.trans f, State.onlyUsesAnswers_trans g g'⟩

variable {R : State → State → Prop}

theorem Composes.bind (hR : Composes R) {c : Cmd α} {f : α → Cmd β} (hc : Cmd.Within R c)
    (hf : ∀ a, Cmd.Within R (f a)) : Cmd.Within R (c >>= f) := Cmd.within_bind hR.trans hc hf

theorem Composes.pure (hR : Composes R) (a : α) : Cmd.Within R (Pure.pure a) := hR.refl

theorem Composes.raise (hR : Composes R) (st : Status) (n : Half) : Cmd.Within R (Machine.raise st n : Cmd α) :=
  hR.refl

theorem Composes.finish (hR : Composes R) : Cmd.Within R finish := hR.refl

theorem Composes.finishJumped (hR : Composes R) : Cmd.Within R finishJumped := hR.refl

theorem Composes.getPsw (hR : Composes R) : Cmd.Within R getPsw := hR.refl

theorem Composes.getConfig (hR : Composes R) : Cmd.Within R getConfig := hR.refl

theorem Composes.memRead (hR : Composes R) (a : Byte) : Cmd.Within R (memRead a) :=
  Cmd.within_of_same hR.refl (memRead_same a)

theorem Composes.bitRead (hR : Composes R) (b : Byte) : Cmd.Within R (bitRead b) :=
  Cmd.within_of_same hR.refl (bitRead_same b)

theorem Composes.resolveDst (hR : Composes R) (d : Dst) : Cmd.Within R (resolveDst d) :=
  Cmd.within_of_same hR.refl (resolveDst_same d)

theorem Composes.resolveSrc (hR : Composes R) (v : Src) : Cmd.Within R (resolveSrc v) :=
  Cmd.within_of_same hR.refl (resolveSrc_same v)

theorem within_memWrite (hn : ∀ s, R s s.answered) (h : ∀ s a v, R s (s.wrote a v)) (a v : Byte) :
    Cmd.Within R (memWrite a v) := fun s => by
  rcases memWrite_after a v s with e | e <;> rw [e]
  · exact hn s
  · exact h s a v

theorem within_bitWrite (hn : ∀ s, R s s.answered) (h : ∀ s b x, R s (s.wroteBit b x)) (b : Byte) (x : Bool) :
    Cmd.Within R (bitWrite b x) := fun s => by
  rcases bitWrite_after b x s with e | e <;> rw [e]
  · exact hn s
  · exact h s b x

theorem Composes.pcSet (hR : Composes R) (hn : ∀ s, R s s.answered) (h : ∀ (s : State) t, R s (s.noted t)) (t : Half) :
    Cmd.Within R (pcSet t) := fun s => by
  rcases pcSet_after t s with e | e <;> rw [e]
  · exact hn s
  · exact hR.trans _ _ _ (hn s) (h _ t)

theorem Composes.branch (hR : Composes R) (h : ∀ (s : State) t, R s (s.noted t)) (c : Bool) (l : Half) :
    Cmd.Within R (branch c l) := fun s => by
  rcases branch_after c l s with e | ⟨t, e⟩ <;> rw [e]
  · exact hR.refl s
  · exact h s t

theorem within_compute (h : ∀ (s : State) (p : Psw), R s { s with psw := p }) (a b : Byte) (m : ComputeMode)
    (en : FlagEnables) : Cmd.Within R (compute a b m en) := fun s => h s _

theorem within_logicFlags (h : ∀ (s : State) (p : Psw), R s { s with psw := p }) (r : Byte) :
    Cmd.Within R (logicFlags r) := fun s => h s _

theorem within_writeCy (h : ∀ (s : State) (p : Psw), R s { s with psw := p }) (x : Bool) :
    Cmd.Within R (writeCy x) := fun s => h s _

theorem within_writeOv (h : ∀ (s : State) (p : Psw), R s { s with psw := p }) (x : Bool) :
    Cmd.Within R (writeOv x) := fun s => h s _

/-- The `compute` of `dec` and `djnz` changes nothing. -/
theorem Composes.compute_none (hR : Composes R) (a b : Byte) (m : ComputeMode) :
    Cmd.Within R (compute a b m .none) := fun s => hR.refl s

theorem Composes.daRangeCheck (hR : Composes R) (a : Byte) : Cmd.Within R (daRangeCheck a) := by
  unfold Machine.daRangeCheck
  refine hR.bind hR.getConfig fun _ => ?_
  split
  · exact hR.raise _ _
  · exact hR.pure _

theorem Composes.takeCarryIn (hR : Composes R) (h : ∀ (s : State) (p : Psw), R s { s with psw := p }) (a : Byte) :
    Cmd.Within R (takeCarryIn a) := by
  unfold Machine.takeCarryIn
  refine hR.bind hR.getPsw fun _ => ?_
  split
  · exact hR.bind (within_writeCy h _) fun _ => hR.pure _
  · exact hR.pure _

/-- From the statements of an instruction to `exec`, for a relation that a status report does not touch. -/
theorem exec_within {i : Instr} (hc : Cmd.Within R (commandOf i))
    (hrep : ∀ s t st n x, R s t → R s (t.report st n x)) {s t : State} (h : exec i s = .next t) : R s t := by
  rw [exec_eq] at h
  obtain ⟨st, n, x, rfl⟩ := runCommand_eq_next h
  exact hrep _ _ _ _ _ (hc s)

/-! ### How a command goes on from its reads -/

theorem runCommand_congr {c c' : Cmd Xfer} {s s' : State} (h : c.run s = c'.run s') :
    runCommand c s = runCommand c' s' := by
  unfold runCommand; rw [h]

/-- A command that resolves and reads one operand. -/
theorem runCommand_operand (d : Dst) (f : Byte → Byte → Cmd Xfer) (s : State) :
    runCommand (resolveDst d >>= fun ea => memRead ea >>= fun x => f ea x) s =
      match s.firstUnserved (s.dstReads d ++ [s.dstAddr d]) with
      | none => runCommand (f (s.dstAddr d) (s.dstValue d)) s
      | some b => .next (s.raised .memReadFail (zext16 b)) := by
  have h := run_bind_operand d f s
  cases hu : s.firstUnserved (s.dstReads d ++ [s.dstAddr d]) with
  | none => rw [hu] at h; exact runCommand_congr h
  | some b => rw [hu] at h; exact runCommand_error h

/-- A command that resolves two operands and reads the first. -/
theorem runCommand_operands (d : Dst) (v : Src) (f : Byte → Byte → Byte → Cmd Xfer) (s : State) :
    runCommand (resolveDst d >>= fun ea => resolveSrc v >>= fun y => memRead ea >>= fun x => f ea y x) s =
      match s.firstUnserved (s.dstReads d ++ s.srcReads v ++ [s.dstAddr d]) with
      | none => runCommand (f (s.dstAddr d) (s.srcValue v) (s.dstValue d)) s
      | some b => .next (s.raised .memReadFail (zext16 b)) := by
  have h := run_bind_operands d v f s
  cases hu : s.firstUnserved (s.dstReads d ++ s.srcReads v ++ [s.dstAddr d]) with
  | none => rw [hu] at h; exact runCommand_congr h
  | some b => rw [hu] at h; exact runCommand_error h

theorem runCommand_compute (a b : Byte) (m : ComputeMode) (en : FlagEnables) (f : Byte → Cmd Xfer) (s : State) :
    runCommand (compute a b m en >>= f) s =
      runCommand (f (computeResult a b m)) { s with psw := computePsw s.cfg.subCyRule a b m en s.psw } :=
  runCommand_congr (Cmd.run_bind_ok (run_compute a b m en s))

theorem runCommand_logicFlags (r : Byte) (f : Unit → Cmd Xfer) (s : State) :
    runCommand (logicFlags r >>= f) s = runCommand (f ()) { s with psw := logicPsw r s.psw } :=
  runCommand_congr (Cmd.run_bind_ok (run_logicFlags r s))

theorem runCommand_getConfig (f : Config → Cmd Xfer) (s : State) :
    runCommand (getConfig >>= f) s = runCommand (f s.cfg) s :=
  runCommand_congr (Cmd.run_bind_ok (run_getConfig s))

end Sys2Proof.Machine
end

