-- ==== Sys2Proof/Laws/PerInstr.lean ====
section
/-! SUPPORT. Statements made of every instruction, one lemma per constructor. -/

namespace Sys2Proof.Laws.EncodesLegalWord

/-- The instruction's command word is one that R83, R84 and R86 call legal (Sys2Proof/WellFormed.lean). -/
def Statement (i : Instr) : Prop := (Command.ofWord (encode i)).wellFormed = true

/-- Legality depends on CW[47:32] alone. -/
theorem wellFormed_cw (head : Half) (f1 f2 : Byte) (x16 : Half)
    (h : Command.wellFormed ⟨head.extractLsb' 8 8, .ofBits (head.extractLsb' 6 2), .ofBits (head.extractLsb' 4 2),
      head.extractLsb' 0 4, 0, 0, 0⟩ = true) :
    (Command.ofWord (cw head f1 f2 x16)).wellFormed = true := by
  rw [Command.ofWord_cw]; exact h

theorem movDirDir (dst src : Byte) : Statement (.movDirDir dst src) := wellFormed_cw _ _ _ _ (by decide)
theorem movDirInd (dst srcPtr : Byte) : Statement (.movDirInd dst srcPtr) := wellFormed_cw _ _ _ _ (by decide)
theorem movDirImm (dst imm : Byte) : Statement (.movDirImm dst imm) := wellFormed_cw _ _ _ _ (by decide)
theorem movIndDir (dstPtr src : Byte) : Statement (.movIndDir dstPtr src) := wellFormed_cw _ _ _ _ (by decide)
theorem movIndInd (dstPtr srcPtr : Byte) : Statement (.movIndInd dstPtr srcPtr) := wellFormed_cw _ _ _ _ (by decide)
theorem movIndImm (dstPtr imm : Byte) : Statement (.movIndImm dstPtr imm) := wellFormed_cw _ _ _ _ (by decide)
theorem addDirDir (dst src : Byte) : Statement (.addDirDir dst src) := wellFormed_cw _ _ _ _ (by decide)
theorem addDirInd (dst srcPtr : Byte) : Statement (.addDirInd dst srcPtr) := wellFormed_cw _ _ _ _ (by decide)
theorem addDirImm (dst imm : Byte) : Statement (.addDirImm dst imm) := wellFormed_cw _ _ _ _ (by decide)
theorem addIndDir (dstPtr src : Byte) : Statement (.addIndDir dstPtr src) := wellFormed_cw _ _ _ _ (by decide)
theorem addIndInd (dstPtr srcPtr : Byte) : Statement (.addIndInd dstPtr srcPtr) := wellFormed_cw _ _ _ _ (by decide)
theorem addIndImm (dstPtr imm : Byte) : Statement (.addIndImm dstPtr imm) := wellFormed_cw _ _ _ _ (by decide)
theorem subbDirDir (dst src : Byte) : Statement (.subbDirDir dst src) := wellFormed_cw _ _ _ _ (by decide)
theorem subbDirInd (dst srcPtr : Byte) : Statement (.subbDirInd dst srcPtr) := wellFormed_cw _ _ _ _ (by decide)
theorem subbDirImm (dst imm : Byte) : Statement (.subbDirImm dst imm) := wellFormed_cw _ _ _ _ (by decide)
theorem subbIndDir (dstPtr src : Byte) : Statement (.subbIndDir dstPtr src) := wellFormed_cw _ _ _ _ (by decide)
theorem subbIndInd (dstPtr srcPtr : Byte) : Statement (.subbIndInd dstPtr srcPtr) := wellFormed_cw _ _ _ _ (by decide)
theorem subbIndImm (dstPtr imm : Byte) : Statement (.subbIndImm dstPtr imm) := wellFormed_cw _ _ _ _ (by decide)
theorem anlDirDir (dst src : Byte) : Statement (.anlDirDir dst src) := wellFormed_cw _ _ _ _ (by decide)
theorem anlDirInd (dst srcPtr : Byte) : Statement (.anlDirInd dst srcPtr) := wellFormed_cw _ _ _ _ (by decide)
theorem anlDirImm (dst imm : Byte) : Statement (.anlDirImm dst imm) := wellFormed_cw _ _ _ _ (by decide)
theorem anlIndDir (dstPtr src : Byte) : Statement (.anlIndDir dstPtr src) := wellFormed_cw _ _ _ _ (by decide)
theorem anlIndInd (dstPtr srcPtr : Byte) : Statement (.anlIndInd dstPtr srcPtr) := wellFormed_cw _ _ _ _ (by decide)
theorem anlIndImm (dstPtr imm : Byte) : Statement (.anlIndImm dstPtr imm) := wellFormed_cw _ _ _ _ (by decide)
theorem orlDirDir (dst src : Byte) : Statement (.orlDirDir dst src) := wellFormed_cw _ _ _ _ (by decide)
theorem orlDirInd (dst srcPtr : Byte) : Statement (.orlDirInd dst srcPtr) := wellFormed_cw _ _ _ _ (by decide)
theorem orlDirImm (dst imm : Byte) : Statement (.orlDirImm dst imm) := wellFormed_cw _ _ _ _ (by decide)
theorem orlIndDir (dstPtr src : Byte) : Statement (.orlIndDir dstPtr src) := wellFormed_cw _ _ _ _ (by decide)
theorem orlIndInd (dstPtr srcPtr : Byte) : Statement (.orlIndInd dstPtr srcPtr) := wellFormed_cw _ _ _ _ (by decide)
theorem orlIndImm (dstPtr imm : Byte) : Statement (.orlIndImm dstPtr imm) := wellFormed_cw _ _ _ _ (by decide)
theorem incDir (op : Byte) : Statement (.incDir op) := wellFormed_cw _ _ _ _ (by decide)
theorem incInd (opPtr : Byte) : Statement (.incInd opPtr) := wellFormed_cw _ _ _ _ (by decide)
theorem decDir (op : Byte) : Statement (.decDir op) := wellFormed_cw _ _ _ _ (by decide)
theorem decInd (opPtr : Byte) : Statement (.decInd opPtr) := wellFormed_cw _ _ _ _ (by decide)
theorem rlDir (op : Byte) : Statement (.rlDir op) := wellFormed_cw _ _ _ _ (by decide)
theorem rlInd (opPtr : Byte) : Statement (.rlInd opPtr) := wellFormed_cw _ _ _ _ (by decide)
theorem rrDir (op : Byte) : Statement (.rrDir op) := wellFormed_cw _ _ _ _ (by decide)
theorem rrInd (opPtr : Byte) : Statement (.rrInd opPtr) := wellFormed_cw _ _ _ _ (by decide)
theorem daDir (op : Byte) : Statement (.daDir op) := wellFormed_cw _ _ _ _ (by decide)
theorem daInd (opPtr : Byte) : Statement (.daInd opPtr) := wellFormed_cw _ _ _ _ (by decide)
theorem org (addr : Half) : Statement (.org addr) := wellFormed_cw _ _ _ _ (by decide)
theorem mul : Statement (.mul) := wellFormed_cw _ _ _ _ (by decide)
theorem setb (bit : Byte) : Statement (.setb bit) := wellFormed_cw _ _ _ _ (by decide)
theorem clr (bit : Byte) : Statement (.clr bit) := wellFormed_cw _ _ _ _ (by decide)
theorem cpl (bit : Byte) : Statement (.cpl bit) := wellFormed_cw _ _ _ _ (by decide)
theorem jz (label : Half) : Statement (.jz label) := wellFormed_cw _ _ _ _ (by decide)
theorem jnz (label : Half) : Statement (.jnz label) := wellFormed_cw _ _ _ _ (by decide)
theorem jc (label : Half) : Statement (.jc label) := wellFormed_cw _ _ _ _ (by decide)
theorem jnc (label : Half) : Statement (.jnc label) := wellFormed_cw _ _ _ _ (by decide)
theorem djnzDir (op : Byte) (label : Half) : Statement (.djnzDir op label) := wellFormed_cw _ _ _ _ (by decide)
theorem djnzInd (opPtr : Byte) (label : Half) : Statement (.djnzInd opPtr label) := wellFormed_cw _ _ _ _ (by decide)
theorem djnzAcc (label : Half) : Statement (.djnzAcc label) := wellFormed_cw _ _ _ _ (by decide)
theorem cjneDirDir (fst snd : Byte) (label : Half) : Statement (.cjneDirDir fst snd label) := wellFormed_cw _ _ _ _ (by decide)
theorem cjneDirInd (fst sndPtr : Byte) (label : Half) : Statement (.cjneDirInd fst sndPtr label) := wellFormed_cw _ _ _ _ (by decide)
theorem cjneDirImm (fst imm : Byte) (label : Half) : Statement (.cjneDirImm fst imm label) := wellFormed_cw _ _ _ _ (by decide)
theorem cjneIndDir (fstPtr snd : Byte) (label : Half) : Statement (.cjneIndDir fstPtr snd label) := wellFormed_cw _ _ _ _ (by decide)
theorem cjneIndInd (fstPtr sndPtr : Byte) (label : Half) : Statement (.cjneIndInd fstPtr sndPtr label) := wellFormed_cw _ _ _ _ (by decide)
theorem cjneIndImm (fstPtr imm : Byte) (label : Half) : Statement (.cjneIndImm fstPtr imm label) := wellFormed_cw _ _ _ _ (by decide)
theorem jb : Statement (.jb) := wellFormed_cw _ _ _ _ (by decide)
theorem jnb : Statement (.jnb) := wellFormed_cw _ _ _ _ (by decide)

end Sys2Proof.Laws.EncodesLegalWord
end

