-- ==== Sys2Proof/Tests/Slice0.lean ====
section
/-! SUPPORT. Tests of the model, and for every statement of Certificates/Slice0/Obligations.lean that has hypotheses a
state and operands that meet them. The expected values of the tests are those of spec/95_test_vectors.md (the vector is
named beside each) and the words are those of spec/opcode_table.json and 30_encoding.md. -/

namespace Sys2Proof.Tests

open Sys2Proof.Machine

set_option maxRecDepth 4000

/-! ### Helpers -/

/-- A launch with these parameters, bytes, bits and flags, and no write request failed; label handle 0x0001 is defined,
as the vectors assume. -/
def start (cfg : Config) (cells : List (Byte × Byte)) (bits : List (Byte × Bool)) (psw : Psw) : State :=
  .launch cfg psw (cells.foldl (fun m c => m.write c.1 c.2) []) (bits.foldl (fun m c => m.write c.1 c.2) []) []
    [(0x0001, 0x0040)] 0x0000 []

/-- The outcome is a next state with these bytes, bits and flags and this status, INFO and XFER. -/
def endsAs (o : Host.Outcome State Fault Refusal) (cells : List (Byte × Byte)) (bits : List (Byte × Bool)) (psw : Psw)
    (status : Status) (info : Half) (xfer : Bool) : Bool :=
  match o with
  | .next t =>
    cells.all (fun c => t.mem.read c.1 == c.2) && bits.all (fun c => t.bits.read c.1 == c.2) && t.psw == psw &&
      t.status == status && t.info == info && t.xfer == xfer && (!xfer || t.target.isSome)
  | .fault _ => false
  | .refused _ => false

/-- All four flags 0. -/
def clear : Psw := ⟨false, false, false, false⟩

/-- All four flags 1. -/
def full : Psw := ⟨true, true, true, true⟩

/-! ### WellFormed: an ill-formed command for each check, refused -/

theorem test_wf_refuses_unassigned_op :
    [0x00, 0x0D, 0x0F, 0x13, 0x1F, 0x28, 0xFF].all (fun op =>
      !(Command.mk op .direct .none 0 0x30 0 0).opAssigned && !(Command.mk op .direct .none 0 0x30 0 0).wellFormed) =
        true := by decide

theorem test_wf_refuses_illegal_pair_A2_CJ :
    [0x01, 0x05, 0x25].all (fun op =>
      !(Command.mk op .immediate .direct 0 0x30 0xE0 0).wellFormed && !(Command.mk op .none .none 0 0 0 0).wellFormed &&
        !(Command.mk op .direct .none 0 0x30 0 0).wellFormed) = true := by decide

theorem test_wf_refuses_illegal_pair_A1_DJ :
    [0x06, 0x0A, 0x24].all (fun op =>
      !(Command.mk op .direct .immediate 0 0x30 1 1).wellFormed && !(Command.mk op .immediate .none 0 1 0 0).wellFormed) =
        true ∧ (Command.mk 0x06 .none .none 0 0 0 0).pairLegal = false := by decide

theorem test_wf_refuses_illegal_pair_A0_ORG_BR :
    [0x0C, 0x0B, 0x20, 0x23].all (fun op => !(Command.mk op .direct .none 0 0x30 0 0).wellFormed) = true := by decide

theorem test_wf_refuses_illegal_pair_BIT :
    [0x10, 0x11, 0x12].all (fun op => !(Command.mk op .indirect .none 0 0x07 0 0).wellFormed) = true := by decide

theorem test_wf_refuses_nonzero_rsv :
    (Command.mk 0x06 .direct .none 1 0xE0 0 0).rsvZero = false ∧
    (Command.mk 0x06 .direct .none 1 0xE0 0 0).wellFormed = false ∧
    (Command.mk 0x0C .none .none 8 0 0 0).wellFormed = false := by decide

theorem test_wf_accepts_jb_with_any_fields :
    (Command.mk 0x26 .immediate .immediate 0xF 0 0 0).wellFormed = true ∧
    (Command.mk 0x27 .none .indirect 1 0xFF 0xFF 0xFFFF).wellFormed = true := by decide

/-! ### Decode: a word of every constructor, from the rows of the opcode table (OP 47:40, M1 39:38, M2 37:36, RSV 35:32,
F1 31:24, F2 23:16, X16 15:0) -/

theorem test_decode_mov :
    decode 0x0150814E0000 = .ok (.movDirDir 0x81 0x4E) ∧
    decode 0x0160814E0000 = .ok (.movDirInd 0x81 0x4E) ∧
    decode 0x0170814E0000 = .ok (.movDirImm 0x81 0x4E) ∧
    decode 0x0190814E0000 = .ok (.movIndDir 0x81 0x4E) ∧
    decode 0x01A0814E0000 = .ok (.movIndInd 0x81 0x4E) ∧
    decode 0x01B0814E0000 = .ok (.movIndImm 0x81 0x4E) := by
  refine ⟨rfl, rfl, rfl, rfl, rfl, rfl⟩

theorem test_decode_add :
    decode 0x0250814E0000 = .ok (.addDirDir 0x81 0x4E) ∧
    decode 0x0260814E0000 = .ok (.addDirInd 0x81 0x4E) ∧
    decode 0x0270814E0000 = .ok (.addDirImm 0x81 0x4E) ∧
    decode 0x0290814E0000 = .ok (.addIndDir 0x81 0x4E) ∧
    decode 0x02A0814E0000 = .ok (.addIndInd 0x81 0x4E) ∧
    decode 0x02B0814E0000 = .ok (.addIndImm 0x81 0x4E) := by
  refine ⟨rfl, rfl, rfl, rfl, rfl, rfl⟩

theorem test_decode_subb :
    decode 0x0350814E0000 = .ok (.subbDirDir 0x81 0x4E) ∧
    decode 0x0360814E0000 = .ok (.subbDirInd 0x81 0x4E) ∧
    decode 0x0370814E0000 = .ok (.subbDirImm 0x81 0x4E) ∧
    decode 0x0390814E0000 = .ok (.subbIndDir 0x81 0x4E) ∧
    decode 0x03A0814E0000 = .ok (.subbIndInd 0x81 0x4E) ∧
    decode 0x03B0814E0000 = .ok (.subbIndImm 0x81 0x4E) := by
  refine ⟨rfl, rfl, rfl, rfl, rfl, rfl⟩

theorem test_decode_anl :
    decode 0x0450814E0000 = .ok (.anlDirDir 0x81 0x4E) ∧
    decode 0x0460814E0000 = .ok (.anlDirInd 0x81 0x4E) ∧
    decode 0x0470814E0000 = .ok (.anlDirImm 0x81 0x4E) ∧
    decode 0x0490814E0000 = .ok (.anlIndDir 0x81 0x4E) ∧
    decode 0x04A0814E0000 = .ok (.anlIndInd 0x81 0x4E) ∧
    decode 0x04B0814E0000 = .ok (.anlIndImm 0x81 0x4E) := by
  refine ⟨rfl, rfl, rfl, rfl, rfl, rfl⟩

theorem test_decode_orl :
    decode 0x0550814E0000 = .ok (.orlDirDir 0x81 0x4E) ∧
    decode 0x0560814E0000 = .ok (.orlDirInd 0x81 0x4E) ∧
    decode 0x0570814E0000 = .ok (.orlDirImm 0x81 0x4E) ∧
    decode 0x0590814E0000 = .ok (.orlIndDir 0x81 0x4E) ∧
    decode 0x05A0814E0000 = .ok (.orlIndInd 0x81 0x4E) ∧
    decode 0x05B0814E0000 = .ok (.orlIndImm 0x81 0x4E) := by
  refine ⟨rfl, rfl, rfl, rfl, rfl, rfl⟩

theorem test_decode_inc :
    decode 0x064081000000 = .ok (.incDir 0x81) ∧
    decode 0x068081000000 = .ok (.incInd 0x81) := by
  refine ⟨rfl, rfl⟩

theorem test_decode_dec :
    decode 0x074081000000 = .ok (.decDir 0x81) ∧
    decode 0x078081000000 = .ok (.decInd 0x81) := by
  refine ⟨rfl, rfl⟩

theorem test_decode_rl :
    decode 0x084081000000 = .ok (.rlDir 0x81) ∧
    decode 0x088081000000 = .ok (.rlInd 0x81) := by
  refine ⟨rfl, rfl⟩

theorem test_decode_rr :
    decode 0x094081000000 = .ok (.rrDir 0x81) ∧
    decode 0x098081000000 = .ok (.rrInd 0x81) := by
  refine ⟨rfl, rfl⟩

theorem test_decode_da :
    decode 0x0A4081000000 = .ok (.daDir 0x81) ∧
    decode 0x0A8081000000 = .ok (.daInd 0x81) := by
  refine ⟨rfl, rfl⟩

theorem test_decode_org :
    decode 0x0B000000A5C3 = .ok (.org 0xA5C3) := by
  decide

theorem test_decode_mul :
    decode 0x0C0000000000 = .ok .mul := by
  decide

theorem test_decode_setb :
    decode 0x104081000000 = .ok (.setb 0x81) := by
  decide

theorem test_decode_clr :
    decode 0x114081000000 = .ok (.clr 0x81) := by
  decide

theorem test_decode_cpl :
    decode 0x124081000000 = .ok (.cpl 0x81) := by
  decide

theorem test_decode_jz :
    decode 0x20000000A5C3 = .ok (.jz 0xA5C3) := by
  decide

theorem test_decode_jnz :
    decode 0x21000000A5C3 = .ok (.jnz 0xA5C3) := by
  decide

theorem test_decode_jc :
    decode 0x22000000A5C3 = .ok (.jc 0xA5C3) := by
  decide

theorem test_decode_jnc :
    decode 0x23000000A5C3 = .ok (.jnc 0xA5C3) := by
  decide

theorem test_decode_djnz :
    decode 0x24408100A5C3 = .ok (.djnzDir 0x81 0xA5C3) ∧
    decode 0x24808100A5C3 = .ok (.djnzInd 0x81 0xA5C3) ∧
    decode 0x24000000A5C3 = .ok (.djnzAcc 0xA5C3) := by
  refine ⟨rfl, rfl, rfl⟩

theorem test_decode_cjne :
    decode 0x2550814EA5C3 = .ok (.cjneDirDir 0x81 0x4E 0xA5C3) ∧
    decode 0x2560814EA5C3 = .ok (.cjneDirInd 0x81 0x4E 0xA5C3) ∧
    decode 0x2570814EA5C3 = .ok (.cjneDirImm 0x81 0x4E 0xA5C3) ∧
    decode 0x2590814EA5C3 = .ok (.cjneIndDir 0x81 0x4E 0xA5C3) ∧
    decode 0x25A0814EA5C3 = .ok (.cjneIndInd 0x81 0x4E 0xA5C3) ∧
    decode 0x25B0814EA5C3 = .ok (.cjneIndImm 0x81 0x4E 0xA5C3) := by
  refine ⟨rfl, rfl, rfl, rfl, rfl, rfl⟩

theorem test_decode_jb :
    decode 0x264000000000 = .ok .jb := by
  decide

theorem test_decode_jnb :
    decode 0x274000000000 = .ok .jnb := by
  decide

/-- The fields of V-ADD-1's word written out bit by bit (R81): OP, M1, M2, RSV, F1, F2, X16. -/
theorem test_decode_add_bit_by_bit :
    decode ((0b00000010 : BitVec 8) ++ (0b01 : BitVec 2) ++ (0b11 : BitVec 2) ++ (0b0000 : BitVec 4) ++
      (0b11100000 : BitVec 8) ++ (0b00000101 : BitVec 8) ++ (0b0000000000000000 : BitVec 16)) =
        .ok (.addDirImm 0xE0 0x05) := by rfl

theorem test_decode_cjne_bit_by_bit :
    decode ((0b00100101 : BitVec 8) ++ (0b10 : BitVec 2) ++ (0b01 : BitVec 2) ++ (0b0000 : BitVec 4) ++
      (0b00000000 : BitVec 8) ++ (0b00110001 : BitVec 8) ++ (0b0000000000000001 : BitVec 16)) =
        .ok (.cjneIndDir 0x00 0x31 0x0001) := by rfl

/-- V-DEC-1, V-DEC-3, V-DEC-7, V-DEC-9: refused by name. -/
theorem test_decode_rejects_by_name :
    decode 0x000000000000 = .error (.unknownOpcode 0x00) ∧
    decode 0xFFFFFFFFFFFF = .error (.unknownOpcode 0xFF) ∧
    decode 0x01D030E00000 = .error (.illegalOperand 0x01D0) ∧
    decode 0x0641E0000000 = .error (.illegalOperand 0x0641) := by
  refine ⟨rfl, rfl, rfl, rfl⟩

/-- Ignored fields (V-DEC-12, V-DEC-13). -/
theorem test_decode_ignores_unused_fields :
    decode 0x0640E0991234 = .ok (.incDir 0xE0) ∧ decode 0x200055000001 = .ok (.jz 0x0001) := by
  refine ⟨rfl, rfl⟩

/-- Big-endian bytes (R56). -/
theorem test_decodeBytes_big_endian :
    decodeBytes [0x02, 0x70, 0xE0, 0x05, 0x00, 0x00, 0x99] = .ok (.addDirImm 0xE0 0x05, [0x99]) ∧
    decodeBytes [0x02, 0x70, 0xE0, 0x05, 0x00] = .error .truncated := by
  refine ⟨rfl, rfl⟩

/-- Words of R90's table. -/
theorem test_encode_sample_words :
    encode (.addDirImm 0xE0 0x05) = 0x0270E0050000 ∧ encode (.incInd 0x00) = 0x068000000000 ∧
    encode (.org 0x0100) = 0x0B0000000100 ∧ encode (.setb 0x07) = 0x104007000000 ∧
    encode (.djnzDir 0x30 0x0001) = 0x244030000001 ∧ encode (.cjneDirImm 0xE0 0x10 0x0001) = 0x2570E0100001 := by
  refine ⟨rfl, rfl, rfl, rfl, rfl, rfl⟩

theorem test_decodeTableWord : decodeTableWord 48 0x0270E0050000 = some (.addDirImm 0xE0 0x05) := by rfl

/-! ### One command each: vectors of spec/95_test_vectors.md -/

/-- V-ADD-2: `add A, #0x01`. -/
theorem test_V_ADD_2 : endsAs (present 0x0270E0010000 (start .test [(0xE0, 0xFF)] [] clear))
    [(0xE0, 0x00)] [] ⟨true, true, true, false⟩ .ok 0x0000 false = true := by decide

/-- V-ADD-5: `add A, #0x01`. -/
theorem test_V_ADD_5 : endsAs (present 0x0270E0010000 (start .test [(0xE0, 0x7F)] [] clear))
    [(0xE0, 0x80)] [] ⟨false, true, false, true⟩ .ok 0x0000 false = true := by decide

/-- V-ADD-7: `add 0x30, 0x31`. -/
theorem test_V_ADD_7 : endsAs (present 0x025030310000 (start .test [(0x30, 0x12), (0x31, 0x34)] [] clear))
    [(0x30, 0x46), (0x31, 0x34)] [] clear .ok 0x0000 false = true := by decide

/-- V-ADD-8: `add A, @0x00`. -/
theorem test_V_ADD_8 : endsAs (present 0x0260E0000000 (start .test [(0x00, 0x40), (0x40, 0xF8), (0xE0, 0x10)] [] clear))
    [(0x00, 0x40), (0x40, 0xF8), (0xE0, 0x08)] [] ⟨true, false, false, false⟩ .ok 0x0000 false = true := by decide

/-- V-ADD-9: `add @0x01, #0x10`. -/
theorem test_V_ADD_9 : endsAs (present 0x02B001100000 (start .test [(0x01, 0x50), (0x50, 0xF0)] [] clear))
    [(0x01, 0x50), (0x50, 0x00)] [] ⟨true, false, true, false⟩ .ok 0x0000 false = true := by decide

/-- V-ADD-10: `add A, A`. -/
theorem test_V_ADD_10 : endsAs (present 0x0250E0E00000 (start .test [(0xE0, 0x88)] [] clear))
    [(0xE0, 0x10)] [] ⟨true, true, false, false⟩ .ok 0x0000 false = true := by decide

/-- V-SUB-4: `subb A, #0xFF`. -/
theorem test_V_SUB_4 : endsAs (present 0x0370E0FF0000 (start .test [(0xE0, 0x10)] [] ⟨true, false, false, false⟩))
    [(0xE0, 0x10)] [] clear .ok 0x0000 false = true := by decide

/-- V-SUB-9: `subb 0x30, 0x30`. -/
theorem test_V_SUB_9 : endsAs (present 0x035030300000 (start .test [(0x30, 0x29)] [] clear))
    [(0x30, 0x00)] [] ⟨false, true, true, false⟩ .ok 0x0000 false = true := by decide

/-- V-SUB-10: `subb A, #0x03`. -/
theorem test_V_SUB_10 : endsAs (present 0x0370E0030000 (start { Config.test with subCyRule := .literalOr } [(0xE0, 0x05)] [] clear))
    [(0xE0, 0x02)] [] ⟨true, false, false, false⟩ .ok 0x0000 false = true := by decide

/-- V-LOG-2: `orl A, #0x80`. -/
theorem test_V_LOG_2 : endsAs (present 0x0570E0800000 (start .test [(0xE0, 0x01)] [] clear))
    [(0xE0, 0x81)] [] ⟨false, false, true, true⟩ .ok 0x0000 false = true := by decide

/-- V-LOG-3: `anl A, #0x00`. -/
theorem test_V_LOG_3 : endsAs (present 0x0470E0000000 (start .test [(0xE0, 0xFF)] [] ⟨true, true, false, true⟩))
    [(0xE0, 0x00)] [] ⟨true, true, true, false⟩ .ok 0x0000 false = true := by decide

/-- V-LOG-5: `anl @0x00, 0x31`. -/
theorem test_V_LOG_5 : endsAs (present 0x049000310000 (start .test [(0x00, 0x40), (0x31, 0x3C), (0x40, 0xF3)] [] clear))
    [(0x00, 0x40), (0x31, 0x3C), (0x40, 0x30)] [] ⟨false, false, true, false⟩ .ok 0x0000 false = true := by decide

/-- V-LOG-6: `orl A, @0x01`. -/
theorem test_V_LOG_6 : endsAs (present 0x0560E0010000 (start .test [(0x01, 0x50), (0x50, 0x7F), (0xE0, 0x00)] [] clear))
    [(0x01, 0x50), (0x50, 0x7F), (0xE0, 0x7F)] [] clear .ok 0x0000 false = true := by decide

/-- V-MOV-1: `mov A, #0x5A`. -/
theorem test_V_MOV_1 : endsAs (present 0x0170E05A0000 (start .test [(0xE0, 0x00)] [] ⟨true, false, true, false⟩))
    [(0xE0, 0x5A)] [] ⟨true, false, true, false⟩ .ok 0x0000 false = true := by decide

/-- V-MOV-2: `mov 0x30, A`. -/
theorem test_V_MOV_2 : endsAs (present 0x015030E00000 (start .test [(0x30, 0x00), (0xE0, 0x77)] [] clear))
    [(0x30, 0x77), (0xE0, 0x77)] [] clear .ok 0x0000 false = true := by decide

/-- V-MOV-3: `mov @0x00, #0x99`. -/
theorem test_V_MOV_3 : endsAs (present 0x01B000990000 (start .test [(0x00, 0x45), (0x45, 0x00)] [] clear))
    [(0x00, 0x45), (0x45, 0x99)] [] clear .ok 0x0000 false = true := by decide

/-- V-MOV-4: `mov A, @0x00`. -/
theorem test_V_MOV_4 : endsAs (present 0x0160E0000000 (start .test [(0x00, 0x45), (0x45, 0x3C), (0xE0, 0x00)] [] clear))
    [(0x00, 0x45), (0x45, 0x3C), (0xE0, 0x3C)] [] clear .ok 0x0000 false = true := by decide

/-- V-MOV-5: `mov @0x00, @0x01`. -/
theorem test_V_MOV_5 : endsAs (present 0x01A000010000 (start .test [(0x00, 0x40), (0x01, 0x50), (0x40, 0x00), (0x50, 0xAB)] [] clear))
    [(0x00, 0x40), (0x01, 0x50), (0x40, 0xAB), (0x50, 0xAB)] [] clear .ok 0x0000 false = true := by decide

/-- V-MOV-6: `mov @0x00, 0x00`. -/
theorem test_V_MOV_6 : endsAs (present 0x019000000000 (start .test [(0x00, 0x05), (0x05, 0x00)] [] clear))
    [(0x00, 0x05), (0x05, 0x05)] [] clear .ok 0x0000 false = true := by decide

/-- V-ID-2: `inc A`. -/
theorem test_V_ID_2 : endsAs (present 0x0640E0000000 (start .test [(0xE0, 0x7F)] [] full))
    [(0xE0, 0x80)] [] full .ok 0x0000 false = true := by decide

/-- V-ID-3: `dec A`. -/
theorem test_V_ID_3 : endsAs (present 0x0740E0000000 (start .test [(0xE0, 0x00)] [] clear))
    [(0xE0, 0xFF)] [] clear .ok 0x0000 false = true := by decide

/-- V-ID-4: `dec A`. -/
theorem test_V_ID_4 : endsAs (present 0x0740E0000000 (start .test [(0xE0, 0x01)] [] full))
    [(0xE0, 0x00)] [] full .ok 0x0000 false = true := by decide

/-- V-ID-5: `inc @0x00`. -/
theorem test_V_ID_5 : endsAs (present 0x068000000000 (start .test [(0x00, 0x30), (0x30, 0x41)] [] clear))
    [(0x00, 0x30), (0x30, 0x42)] [] clear .ok 0x0000 false = true := by decide

/-- V-ROT-2: `rr A`. -/
theorem test_V_ROT_2 : endsAs (present 0x0940E0000000 (start .test [(0xE0, 0x81)] [] clear))
    [(0xE0, 0xC0)] [] clear .ok 0x0000 false = true := by decide

/-- V-ROT-3: `rl 0x30`. -/
theorem test_V_ROT_3 : endsAs (present 0x084030000000 (start .test [(0x30, 0x81), (0xE0, 0x00)] [] clear))
    [(0x30, 0x81), (0xE0, 0x03)] [] clear .ok 0x0000 false = true := by decide

/-- V-ROT-4: `rl 0x30`. -/
theorem test_V_ROT_4 : endsAs (present 0x084030000000 (start { Config.test with rotateDest := .operand } [(0x30, 0x81), (0xE0, 0x00)] [] clear))
    [(0x30, 0x03), (0xE0, 0x00)] [] clear .ok 0x0000 false = true := by decide

/-- V-ROT-5: `rr @0x00`. -/
theorem test_V_ROT_5 : endsAs (present 0x098000000000 (start .test [(0x00, 0x30), (0x30, 0x01), (0xE0, 0x00)] [] full))
    [(0x00, 0x30), (0x30, 0x01), (0xE0, 0x80)] [] full .ok 0x0000 false = true := by decide

/-- V-ROT-7: `rr 0x30`. -/
theorem test_V_ROT_7 : endsAs (present 0x094030000000 (start { Config.test with rotateDest := .operand } [(0x30, 0x03), (0xE0, 0x00)] [] clear))
    [(0x30, 0x81), (0xE0, 0x00)] [] clear .ok 0x0000 false = true := by decide

/-- V-DA-6: `da A`. -/
theorem test_V_DA_6 : endsAs (present 0x0A40E0000000 (start .test [(0xE0, 0xFF)] [] full))
    [(0xE0, 0x55)] [] full .ok 0x0000 false = true := by decide

/-- V-DA-9: `da A`. -/
theorem test_V_DA_9 : endsAs (present 0x0A40E0000000 (start { Config.test with daWide := .fault } [(0xE0, 0x64)] [] clear))
    [(0xE0, 0x64)] [] clear .valueRange 0x0064 false = true := by decide

/-- V-MUL-1: `mul`. -/
theorem test_V_MUL_1 : endsAs (present 0x0C0000000000 (start .test [(0xE0, 0xC8), (0xF0, 0x03)] [] clear))
    [(0xE0, 0x58), (0xF0, 0x02)] [] ⟨false, false, false, true⟩ .ok 0x0000 false = true := by decide

/-- V-BIT-3: `clr 0x07`. -/
theorem test_V_BIT_3 : endsAs (present 0x114007000000 (start .test [] [(0x07, true)] clear))
    [] [(0x07, false)] clear .ok 0x0000 false = true := by decide

/-- V-BIT-5: `cpl 0x10`. -/
theorem test_V_BIT_5 : endsAs (present 0x124010000000 (start .test [] [(0x10, true)] clear))
    [] [(0x10, false)] clear .ok 0x0000 false = true := by decide

/-- V-BIT-6: `setb 0xE0`. -/
theorem test_V_BIT_6 : endsAs (present 0x1040E0000000 (start .test [(0xE0, 0x00)] [(0xE0, false)] clear))
    [(0xE0, 0x00)] [(0xE0, true)] clear .ok 0x0000 false = true := by decide

/-- V-BR-1: `jz L1`. -/
theorem test_V_BR_1 : endsAs (present 0x200000000001 (start .test [(0xE0, 0x00)] [] clear))
    [(0xE0, 0x00)] [] clear .ok 0x0000 true = true := by decide

/-- V-BR-2: `jz L1`. -/
theorem test_V_BR_2 : endsAs (present 0x200000000001 (start .test [(0xE0, 0x01)] [] clear))
    [(0xE0, 0x01)] [] clear .ok 0x0000 false = true := by decide

/-- V-BR-3: `jnz L1`. -/
theorem test_V_BR_3 : endsAs (present 0x210000000001 (start .test [(0xE0, 0x80)] [] clear))
    [(0xE0, 0x80)] [] clear .ok 0x0000 true = true := by decide

/-- V-BR-4: `jnz L1`. -/
theorem test_V_BR_4 : endsAs (present 0x210000000001 (start .test [(0xE0, 0x00)] [] clear))
    [(0xE0, 0x00)] [] clear .ok 0x0000 false = true := by decide

/-- V-BR-5: `jc L1`. -/
theorem test_V_BR_5 : endsAs (present 0x220000000001 (start .test [] [] ⟨true, false, false, false⟩))
    [] [] ⟨true, false, false, false⟩ .ok 0x0000 true = true := by decide

/-- V-BR-6: `jc L1`. -/
theorem test_V_BR_6 : endsAs (present 0x220000000001 (start .test [] [] ⟨false, true, true, true⟩))
    [] [] ⟨false, true, true, true⟩ .ok 0x0000 false = true := by decide

/-- V-BR-7: `jnc L1`. -/
theorem test_V_BR_7 : endsAs (present 0x230000000001 (start .test [] [] clear))
    [] [] clear .ok 0x0000 true = true := by decide

/-- V-BR-8: `jnc L1`. -/
theorem test_V_BR_8 : endsAs (present 0x230000000001 (start .test [] [] ⟨true, false, false, false⟩))
    [] [] ⟨true, false, false, false⟩ .ok 0x0000 false = true := by decide

/-- V-BR-11: `djnz 0x30, L1`. -/
theorem test_V_BR_11 : endsAs (present 0x244030000001 (start .test [(0x30, 0x00)] [] clear))
    [(0x30, 0xFF)] [] clear .ok 0x0000 true = true := by decide

/-- V-BR-12: `djnz L1`. -/
theorem test_V_BR_12 : endsAs (present 0x240000000001 (start .test [(0xE0, 0x01)] [] clear))
    [(0xE0, 0x00)] [] clear .ok 0x0000 false = true := by decide

/-- V-BR-13: `djnz @0x00, L1`. -/
theorem test_V_BR_13 : endsAs (present 0x248000000001 (start .test [(0x00, 0x31), (0x31, 0x05)] [] clear))
    [(0x00, 0x31), (0x31, 0x04)] [] clear .ok 0x0000 true = true := by decide

/-- V-BR-14: `cjne A, #0x10, L1`. -/
theorem test_V_BR_14 : endsAs (present 0x2570E0100001 (start .test [(0xE0, 0x05)] [] clear))
    [(0xE0, 0x05)] [] ⟨true, false, false, false⟩ .ok 0x0000 true = true := by decide

/-- V-BR-16: `cjne A, #0x05, L1`. -/
theorem test_V_BR_16 : endsAs (present 0x2570E0050001 (start .test [(0xE0, 0x05)] [] full))
    [(0xE0, 0x05)] [] ⟨false, true, true, true⟩ .ok 0x0000 false = true := by decide

/-- V-BR-17: `cjne 0x30, 0x30, L1`. -/
theorem test_V_BR_17 : endsAs (present 0x255030300001 (start .test [(0x30, 0x44)] [] ⟨true, false, false, false⟩))
    [(0x30, 0x44)] [] clear .ok 0x0000 false = true := by decide

/-- V-BR-19: `cjne @0x00, 0x31, L1`. -/
theorem test_V_BR_19 : endsAs (present 0x259000310001 (start .test [(0x00, 0x40), (0x31, 0x09), (0x40, 0x07)] [] clear))
    [(0x00, 0x40), (0x31, 0x09), (0x40, 0x07)] [] ⟨true, false, false, false⟩ .ok 0x0000 true = true := by decide

/-- V-DEC-4: `jb 0x07, L1`. -/
theorem test_V_DEC_4 : endsAs (present 0x264007000001 (start .test [] [(0x07, true)] clear))
    [] [(0x07, true)] clear .notImplemented 0x0026 false = true := by decide

/-- V-DEC-5: `jnb 0x07, L1`. -/
theorem test_V_DEC_5 : endsAs (present 0x274007000001 (start .test [] [(0x07, false)] clear))
    [] [(0x07, false)] clear .notImplemented 0x0027 false = true := by decide

/-- V-DEC-6: `jb (RSV = 0xF, modes 11/11)`. -/
theorem test_V_DEC_6 : endsAs (present 0x26FF00000000 (start .test [] [] clear))
    [] [] clear .notImplemented 0x0026 false = true := by decide

/-- V-F-2: `subb A, 0x30 (0x30 not served)`. -/
theorem test_V_F_2 : endsAs (present 0x0350E0300000 (start { Config.test with memUnserved := [0x30] } [(0xE0, 0x05)] [] ⟨true, false, false, false⟩))
    [(0xE0, 0x05)] [] ⟨true, false, false, false⟩ .memReadFail 0x0030 false = true := by decide

/-- V-F-3: `mov A, @0x00 (pointer target 0x99 not served)`. -/
theorem test_V_F_3 : endsAs (present 0x0160E0000000 (start { Config.test with memUnserved := [0x99] } [(0x00, 0x99), (0xE0, 0x00)] [] clear))
    [(0x00, 0x99), (0xE0, 0x00)] [] clear .memReadFail 0x0099 false = true := by decide

/-- V-F-4: `mul (write of B fails)`. -/
theorem test_V_F_4 : endsAs (present 0x0C0000000000 (start { Config.test with memWriteRefused := [0xF0] } [(0xE0, 0xC8), (0xF0, 0x03)] [] clear))
    [(0xE0, 0x58), (0xF0, 0x03)] [] ⟨false, false, false, true⟩ .memWriteFail 0x00F0 false = true := by decide

/-! Writes of served addresses that fail one at a time (R53, I3): expected values worked out by hand from R155, R263 and
R260. -/

/-- `mul` with both results at A: the low byte of 0xC8 * 0x03 = 0x0258 is written, the write of the high byte to the
same address fails (R263: "on a failing high-byte write also the low byte written"). -/
theorem test_mul_second_write_fails : endsAs (present 0x0C0000000000
    { start { Config.test with mulHiAddr := 0xE0 } [(0xE0, 0xC8), (0xF0, 0x03)] [] full with answers := [true, false] })
    [(0xE0, 0x58), (0xF0, 0x03)] [] ⟨false, true, true, true⟩ .memWriteFail 0x00E0 false = true := by decide

/-- One write of 0x30 fails and the next is accepted. -/
theorem test_mov_write_fails_once :
    endsAs (present 0x017030110000 { start .test [] [] clear with answers := [false, true] })
      [(0x30, 0x00)] [] clear .memWriteFail 0x0030 false = true ∧
    endsAs (present 0x017030110000 { start .test [] [] clear with answers := [true] })
      [(0x30, 0x11)] [] clear .ok 0x0000 false = true := by decide

/-- V-F-5: `djnz 0x30, L9 (label undefined)`. -/
theorem test_V_F_5 : endsAs (present 0x244030000009 (start .test [(0x30, 0x05)] [] clear))
    [(0x30, 0x04)] [] clear .jumpFail 0x0009 false = true := by decide

/-- V-F-7: `cpl 0x80 (bit not served)`. -/
theorem test_V_F_7 : endsAs (present 0x124080000000 (start { Config.test with bitUnserved := [0x80] } [] [(0x80, false)] clear))
    [] [(0x80, false)] clear .bitReadFail 0x0080 false = true := by decide

/-- V-F-8: `setb 0x80 (bit not served)`. -/
theorem test_V_F_8 : endsAs (present 0x104080000000 (start { Config.test with bitUnserved := [0x80] } [] [(0x80, false)] clear))
    [] [(0x80, false)] clear .bitWriteFail 0x0080 false = true := by decide

/-- V-F-9: `org 0x0100 (PC collaborator refuses)`. -/
theorem test_V_F_9 : endsAs (present 0x0B0000000100 (start { Config.test with pcRefused := [0x0100] } [] [] clear))
    [] [] clear .pcWriteFail 0x0100 false = true := by decide

/-- V-F-10: `org 0x0100`. -/
theorem test_V_F_10 : endsAs (present 0x0B0000000100 (start .test [] [] clear))
    [] [] clear .ok 0x0000 true = true := by decide

/-- V-F-12: `inc A (A not served)`. -/
theorem test_V_F_12 : endsAs (present 0x0640E0000000 (start { Config.test with memUnserved := [0xE0] } [(0xE0, 0x00)] [] clear))
    [(0xE0, 0x00)] [] clear .memReadFail 0x00E0 false = true := by decide

/-! Indirect forms that no vector covers: expected values worked out by hand from R59, R60 and the command's rule. -/

theorem test_add_indirect_indirect : endsAs (present 0x02A000010000
    (start .test [(0x00, 0x40), (0x40, 0x01), (0x01, 0x50), (0x50, 0xFF)] [] clear))
    [(0x40, 0x00), (0x50, 0xFF)] [] ⟨true, true, true, false⟩ .ok 0x0000 false = true := by decide

theorem test_subb_indirect_indirect : endsAs (present 0x03A000010000
    (start .test [(0x00, 0x40), (0x40, 0x20), (0x01, 0x50), (0x50, 0x05)] [] full))
    [(0x40, 0x1A), (0x50, 0x05)] [] clear .ok 0x0000 false = true := by decide

theorem test_anl_indirect_immediate : endsAs (present 0x04B0000F0000
    (start .test [(0x00, 0x40), (0x40, 0x3C)] [] clear))
    [(0x00, 0x40), (0x40, 0x0C)] [] ⟨false, false, true, false⟩ .ok 0x0000 false = true := by decide

theorem test_orl_indirect_indirect : endsAs (present 0x05A000010000
    (start .test [(0x00, 0x40), (0x40, 0x0F), (0x01, 0x50), (0x50, 0xF0)] [] clear))
    [(0x40, 0xFF), (0x50, 0xF0)] [] ⟨false, false, true, true⟩ .ok 0x0000 false = true := by decide

theorem test_dec_indirect : endsAs (present 0x078000000000 (start .test [(0x00, 0x30), (0x30, 0x00)] [] clear))
    [(0x00, 0x30), (0x30, 0xFF)] [] clear .ok 0x0000 false = true := by decide

theorem test_rl_indirect : endsAs (present 0x088000000000
    (start .test [(0x00, 0x30), (0x30, 0x80), (0xE0, 0x55)] [] full))
    [(0x30, 0x80), (0xE0, 0x01)] [] full .ok 0x0000 false = true := by decide

theorem test_da_indirect : endsAs (present 0x0A8000000000 (start .test [(0x00, 0x30), (0x30, 0x2A)] [] clear))
    [(0x00, 0x30), (0x30, 0x42)] [] clear .ok 0x0000 false = true := by decide

theorem test_cjne_indirect_indirect : endsAs (present 0x25A000010001
    (start .test [(0x00, 0x40), (0x40, 0x05), (0x01, 0x50), (0x50, 0x09)] [] clear))
    [(0x40, 0x05), (0x50, 0x09)] [] ⟨true, false, false, false⟩ .ok 0x0000 true = true := by decide

/-- A self-pointing destination (R63): EA = 0x30. -/
theorem test_inc_self_pointing : endsAs (present 0x068030000000 (start .test [(0x30, 0x30)] [] clear))
    [(0x30, 0x31)] [] clear .ok 0x0000 false = true := by decide

/-! ### Words that are no command -/

/-- V-DEC-2. -/
theorem test_V_DEC_2 : endsAs (present 0x0D4030000000 (start .test [(0x30, 0x11)] [] clear))
    [(0x30, 0x11)] [] clear .unknownOpcode 0x000D false = true := by decide

/-- V-DEC-9. -/
theorem test_V_DEC_9 : endsAs (present 0x0641E0000000 (start .test [(0xE0, 0x12)] [] clear))
    [(0xE0, 0x12)] [] clear .illegalOperand 0x0641 false = true := by decide

/-- V-DEC-14. -/
theorem test_V_DEC_14 : endsAs (present 0x247030010001 (start .test [(0x30, 0x05)] [] clear))
    [(0x30, 0x05)] [] clear .illegalOperand 0x2470 false = true := by decide

/-! ### The dispatcher -/

/-- The state after a step, if there is one. -/
def after? (o : Host.Outcome State Fault Refusal) : Option State :=
  match o with
  | .next t => some t
  | .fault _ => none
  | .refused _ => none

/-- The fault of a step, if there is one. -/
def fault? (o : Host.Outcome State Fault Refusal) : Option Fault :=
  match o with
  | .next _ => none
  | .fault f => some f
  | .refused _ => none

/-- At reset no program is loaded (R283). -/
theorem test_step_reset_halts : fault? (step .reset) = some (.halt 0x0000) := by decide

/-- `org 0x0100` as the first command after reset: PC is 0x0100, not 0x0101 (R281). -/
theorem test_step_org : (after? (step (State.reset.withFetchWord 48 0x0B0000000100))).map (·.pc) = some 0x0100 := by
  decide

/-- PC + 1 modulo 65536 (R281). -/
theorem test_step_pc_wraps :
    (after? (step ({ State.reset with pc := 0xFFFF }.withFetchWord 48 0x0640E0000000))).map (·.pc) = some 0x0000 := by
  decide

/-- The second step of program P5: FAULT(NOT_IMPLEMENTED, 0x0026), PC unchanged. -/
theorem test_step_jb_ends_the_run :
    (after? (step ({ State.reset with pc := 0x0001 }.withFetchWord 48 0x264007000001))).map
      (fun t => (t.pc, t.status, t.info, fault? (step t))) =
      some (0x0001, .notImplemented, 0x0026, some (.failed .notImplemented 0x0026 0x0001)) := by decide

/-- A taken `djnz` goes to LABELS(0x0001) (program P6's loop). -/
theorem test_step_djnz_jumps :
    (after? (step ((start .test [(0x30, 0x03)] [] full).withFetchWord 48 0x244030000001))).map
      (fun t => (t.pc, t.mem.read 0x30)) = some (0x0040, 0x02) := by decide

/-- STATUS[3:0] (R260). -/
theorem test_status_codes :
    [Status.ok, .notImplemented, .unknownOpcode, .illegalOperand, .memReadFail, .memWriteFail, .bitReadFail,
      .bitWriteFail, .jumpFail, .pcWriteFail, .valueRange].map Status.code = [0, 1, 2, 3, 4, 5, 6, 7, 8, 9, 10] := by
  decide

/-! ### What the host writes between commands -/

theorem test_flag_port_write :
    ((start .test [] [] clear).hostAct (.writeFlag .ac true)).psw = ⟨false, true, false, false⟩ := by decide

theorem test_host_write_byte :
    ((start .test [(0x30, 0x11)] [] clear).hostAct (.writeByte 0x30 0x22)).mem.read 0x30 = 0x22 := by decide

/-! ### The statements' hypotheses are met

`good` serves and accepts everything; `unread a` does not serve address a; `unwritten a` always refuses a write of it;
`answering l` gives the next write requests the answers l. A hypothesis that only names a value (p, f, r, ta = ...) is
met by that value. -/

/-- Bytes with a self-pointing pointer at 0xFF, a pointer 0x00 to 0x30, A = 0xFF and B = 0xFF. -/
def cells : List (Byte × Byte) := [(0x00, 0x30), (0x30, 0x02), (0xE0, 0xFF), (0xF0, 0xFF), (0xFF, 0xFF)]

def good : State := start .test cells [(0xFF, true)] full

def unread (a : Byte) : State := start { Config.test with memUnserved := [a] } cells [] full

def unwritten (a : Byte) : State := start { Config.test with memWriteRefused := [a] } cells [] full

def answering (l : List Bool) : State := { good with answers := l }

theorem test_hyp_CommandWordCheckOrder :
    ([0x000000000000, 0x0D0000000000, 0x0FFFFFFFFFFF, 0x130000000000, 0x1F0000000000, 0x280000000000,
      0xFFFFFFFFFFFF].all (fun w : CW => !(Command.ofWord w).opAssigned) = true) ∧
    ((Command.ofWord 0x26FF00000000).opAssigned = true ∧ (Command.ofWord 0x26FF00000000).isBB = true) ∧
    ((Command.ofWord 0x01D030E00000).opAssigned = true ∧ (Command.ofWord 0x01D030E00000).isBB = false ∧
      (Command.ofWord 0x01D030E00000).pairLegal = false) ∧
    ((Command.ofWord 0x0641E0000000).opAssigned = true ∧ (Command.ofWord 0x0641E0000000).isBB = false ∧
      (Command.ofWord 0x0641E0000000).rsvZero = false) ∧
    ((Command.ofWord 0x2560FFFFFFFF).opAssigned = true ∧
      (Command.ofWord 0x2560FFFFFFFF).isBB = false ∧ (Command.ofWord 0x2560FFFFFFFF).pairLegal = true ∧
      (Command.ofWord 0x2560FFFFFFFF).rsvZero = true) := by decide

theorem test_hyp_UnusedFieldsHaveNoEffect :
    (formatOf? (Command.ofWord 0x0640E0991234).op = some .a1 ∧
      Command.agreeOnUsed .a1 (Command.ofWord 0x0640E0991234) (Command.ofWord 0x0640E0000000)) ∧
    (formatOf? (Command.ofWord 0x26FF00000000).op = some .bb ∧
      Command.agreeOnUsed .bb (Command.ofWord 0x26FF00000000) (Command.ofWord 0x264007000001)) := by
  unfold Command.agreeOnUsed; decide

theorem test_hyp_CommandWordBytesAreBigEndian :
    0 < 6 ∧ 5 < 6 ∧ ([] : List Byte).length < 6 ∧ ([1, 2, 3, 4, 5] : List Byte).length < 6 := by decide

theorem test_hyp_StepRunsDecodedCommand :
    (State.reset.withFetchWord 48 0x0640E0000000).stopped = false ∧
    (State.reset.withFetchWord 48 0x0640E0000000).prog.word? (State.reset.withFetchWord 48 0x0640E0000000).pc =
      some 0x0640E0000000 ∧ decode 0x0640E0000000 = .ok (.incDir 0xE0) := ⟨rfl, rfl, rfl⟩

/-- No word; a failing command; a transfer; a plain completion. -/
theorem test_hyp_DispatcherAdvancesByStatus :
    (State.reset.stopped = false ∧ State.reset.prog.word? State.reset.pc = none) ∧
    (∃ t, present 0x264007000001 { good with target := none } = .next t ∧ t.status ≠ .ok) ∧
    (∃ t, present 0x0B000000FFFF { good with target := none } = .next t ∧ t.status = .ok ∧ t.xfer = true) ∧
    (∃ t, present 0x0640E0000000 { good with target := none } = .next t ∧ t.status = .ok ∧ t.xfer = false) ∧
    (good.withFetchWord 48 0x0640E0000000).prog.word? good.pc = some 0x0640E0000000 :=
  ⟨⟨rfl, rfl⟩, ⟨_, rfl, by decide⟩, ⟨_, rfl, rfl, rfl⟩, ⟨_, rfl, rfl, rfl⟩, rfl⟩

theorem test_hyp_RunEndsInHaltOrFault :
    { State.reset with stopped := true }.stopped = true ∧
    (State.reset.stopped = false ∧ State.reset.prog.word? State.reset.pc = none) ∧
    ((State.reset.withFetchWord 48 0x264007000001).stopped = false ∧
      ((State.reset.withFetchWord 48 0x264007000001).prog.word? State.reset.pc).isSome = true) := by decide

theorem test_hyp_PortRequestsAreAnswered :
    good.cfg.memUnserved.contains 0xFF = false ∧ (unread 0xFF).cfg.memUnserved.contains 0xFF = true ∧
    good.cfg.memWriteRefused.contains 0x00 = false ∧ good.cfg.bitUnserved.contains 0xFF = false ∧
    (start { Config.test with bitUnserved := [0x80] } [] [] clear).cfg.bitUnserved.contains 0x80 = true ∧
    good.cfg.bitWriteRefused.contains 0x80 = false ∧ good.labels.address? 0x0001 = some 0x0040 ∧
    good.labels.address? 0xFFFF = none ∧ good.cfg.pcRefused = [] ∧ good.answers.head? ≠ some false ∧
    (answering [true]).answers.head? ≠ some false ∧ (answering [false]).answers.head? = some false := by decide

theorem test_hyp_StepKeepsInvariant :
    (State.reset.withFetchWord 48 0x0B000000FFFF).Inv ∧
    ∃ t, step (State.reset.withFetchWord 48 0x0B000000FFFF) = .next t :=
  ⟨⟨rfl, rfl, rfl, rfl, fun _ => rfl, by decide, by decide, by decide⟩, ⟨_, rfl⟩⟩

theorem test_hyp_HostActionsAndLoadingKeepInvariant :
    State.reset.Inv ∧ ∃ t, present (BitVec.ofNat 48 (0x0640E0000000 % 2 ^ 48))
      { State.reset.withFetchWord 48 0x0640E0000000 with target := none } = .next t :=
  ⟨⟨rfl, rfl, rfl, rfl, fun _ => rfl, by decide, by decide, by decide⟩, ⟨_, rfl⟩⟩

theorem test_hyp_ReadAfterWrite :
    (memRead 0xFF).run good = .ok 0xFF good ∧
    (∃ t, (memWrite 0xFF 0x00).run good = .ok () t) ∧ (0x00 : Byte) ≠ 0xFF ∧ (memRead 0x00).run good = .ok 0x30 good ∧
    (∃ t, (memWrite 0xFF 0x00).run (unread 0x00) = .ok () t) ∧
    (memRead 0x00).run (unread 0x00) = .error ⟨.memReadFail, 0x0000⟩ (unread 0x00) ∧
    (bitRead 0xFF).run good = .ok true good ∧ (∃ t, (bitWrite 0xFF false).run good = .ok () t) ∧
    (bitRead 0x00).run good = .ok false good ∧
    (∃ t, (bitWrite 0xFF true).run (start { Config.test with bitUnserved := [0x00] } [] [] clear) = .ok () t) ∧
    (bitRead 0x00).run (start { Config.test with bitUnserved := [0x00] } [] [] clear) =
      .error ⟨.bitReadFail, 0x0000⟩ (start { Config.test with bitUnserved := [0x00] } [] [] clear) :=
  ⟨rfl, ⟨_, rfl⟩, by decide, rfl, ⟨_, rfl⟩, rfl, rfl, ⟨_, rfl⟩, rfl, ⟨_, rfl⟩, rfl⟩

/-- The same bytes stored in two orders. -/
theorem test_hyp_MemoriesThatReadAlikeAreEqual :
    Memory.wf (Memory.write (Memory.write [] 0x00 0x01) 0xFF 0x02) = true ∧
    Memory.wf (Memory.write (Memory.write [] 0xFF 0x02) 0x00 0x01) = true ∧
    (∀ a, (Memory.write (Memory.write [] 0x00 0x01) 0xFF 0x02).read a =
      (Memory.write (Memory.write [] 0xFF 0x02) 0x00 0x01).read a) ∧
    BitMemory.wf (BitMemory.write (BitMemory.write [] 0x00 true) 0xFF true) = true ∧
    BitMemory.wf (BitMemory.write (BitMemory.write [] 0xFF true) 0x00 true) = true ∧
    (∀ b, (BitMemory.write (BitMemory.write [] 0x00 true) 0xFF true).read b =
      (BitMemory.write (BitMemory.write [] 0xFF true) 0x00 true).read b) :=
  ⟨rfl, rfl, fun _ => rfl, rfl, rfl, fun _ => rfl⟩

theorem test_hyp_OperandResolution :
    good.memServes 0xFF = true ∧ (unread 0xFF).memServes 0xFF = false ∧ good.memServes (good.mem.read 0x00) = true ∧
    (unread 0x30).memServes 0x00 = true ∧ (unread 0x30).memServes ((unread 0x30).mem.read 0x00) = false := by decide

theorem test_hyp_ComputeWritesEnabledFlags : FlagEnables.none.cy = false := rfl

theorem test_hyp_ComputeCarryRules :
    FlagEnables.all.cy = true ∧ FlagEnables.none.cy = false ∧ good.cfg.subCyRule = .borrow ∧
    (start { Config.test with subCyRule := .literalOr } [] [] clear).cfg.subCyRule = .literalOr := by decide

theorem test_hyp_MovMovesTheSource :
    (good.firstUnserved (good.dstReads (.indirect 0xFF) ++ good.srcReads (.indirect 0x00)) = none ∧
      good.memAccepts (good.dstAddr (.indirect 0xFF)) = true) ∧
    ((unwritten 0xFF).firstUnserved ((unwritten 0xFF).dstReads (.indirect 0xFF) ++
        (unwritten 0xFF).srcReads (.direct 0x30)) = none ∧
      (unwritten 0xFF).memAccepts ((unwritten 0xFF).dstAddr (.indirect 0xFF)) = false) ∧
    (unread 0xFF).firstUnserved ((unread 0xFF).dstReads (.indirect 0xFF) ++ (unread 0xFF).srcReads (.immediate 0xFF)) =
      some 0xFF := by decide

theorem test_hyp_AddStoresSumAndFlags :
    (good.firstUnserved (good.dstReads (.direct 0xE0) ++ good.srcReads (.immediate 0xFF) ++ [good.dstAddr (.direct 0xE0)]) = none ∧
      good.memAccepts (good.dstAddr (.direct 0xE0)) = true) ∧
    ((unwritten 0xE0).firstUnserved ((unwritten 0xE0).dstReads (.direct 0xE0) ++ (unwritten 0xE0).srcReads (.immediate 0xFF) ++
        [(unwritten 0xE0).dstAddr (.direct 0xE0)]) = none ∧
      (unwritten 0xE0).memAccepts ((unwritten 0xE0).dstAddr (.direct 0xE0)) = false) ∧
    (unread 0xE0).firstUnserved ((unread 0xE0).dstReads (.direct 0xE0) ++ (unread 0xE0).srcReads (.immediate 0xFF) ++
      [(unread 0xE0).dstAddr (.direct 0xE0)]) = some 0xE0 := by decide

theorem test_hyp_SubbStoresDifferenceAndFlags :
    (good.firstUnserved (good.dstReads (.indirect 0xFF) ++ good.srcReads (.indirect 0x00) ++ [good.dstAddr (.indirect 0xFF)]) = none ∧
      good.memAccepts (good.dstAddr (.indirect 0xFF)) = true) ∧
    ((unwritten 0xFF).firstUnserved ((unwritten 0xFF).dstReads (.indirect 0xFF) ++ (unwritten 0xFF).srcReads (.indirect 0x00) ++
        [(unwritten 0xFF).dstAddr (.indirect 0xFF)]) = none ∧
      (unwritten 0xFF).memAccepts ((unwritten 0xFF).dstAddr (.indirect 0xFF)) = false) ∧
    (unread 0xFF).firstUnserved ((unread 0xFF).dstReads (.indirect 0xFF) ++ (unread 0xFF).srcReads (.indirect 0x00) ++
      [(unread 0xFF).dstAddr (.indirect 0xFF)]) = some 0xFF := by decide

theorem test_hyp_AnlStoresAndWithFlags :
    (good.firstUnserved (good.dstReads (.indirect 0x00) ++ good.srcReads (.direct 0xFF) ++ [good.dstAddr (.indirect 0x00)]) = none ∧
      good.memAccepts (good.dstAddr (.indirect 0x00)) = true) ∧
    ((unwritten 0x30).firstUnserved ((unwritten 0x30).dstReads (.indirect 0x00) ++ (unwritten 0x30).srcReads (.direct 0xFF) ++
        [(unwritten 0x30).dstAddr (.indirect 0x00)]) = none ∧
      (unwritten 0x30).memAccepts ((unwritten 0x30).dstAddr (.indirect 0x00)) = false) ∧
    (unread 0x30).firstUnserved ((unread 0x30).dstReads (.indirect 0x00) ++ (unread 0x30).srcReads (.direct 0xFF) ++
      [(unread 0x30).dstAddr (.indirect 0x00)]) = some 0x30 := by decide

theorem test_hyp_OrlStoresOrWithFlags :
    (good.firstUnserved (good.dstReads (.direct 0x00) ++ good.srcReads (.indirect 0xFF) ++ [good.dstAddr (.direct 0x00)]) = none ∧
      good.memAccepts (good.dstAddr (.direct 0x00)) = true) ∧
    ((unwritten 0x00).firstUnserved ((unwritten 0x00).dstReads (.direct 0x00) ++ (unwritten 0x00).srcReads (.indirect 0xFF) ++
        [(unwritten 0x00).dstAddr (.direct 0x00)]) = none ∧
      (unwritten 0x00).memAccepts ((unwritten 0x00).dstAddr (.direct 0x00)) = false) ∧
    (unread 0x00).firstUnserved ((unread 0x00).dstReads (.direct 0x00) ++ (unread 0x00).srcReads (.indirect 0xFF) ++
      [(unread 0x00).dstAddr (.direct 0x00)]) = some 0x00 := by decide

/-- b = 0xFF, b + 1 = 0x00; and b a byte of memory, b + 1 an immediate. -/
theorem test_hyp_SubbCarryInLaw :
    (good.firstUnserved (good.dstReads (.indirect 0x00) ++ good.srcReads (.immediate 0xFF) ++
        good.srcReads (.immediate 0x00) ++ [good.dstAddr (.indirect 0x00)]) = none ∧
      good.srcValue (.immediate 0x00) = good.srcValue (.immediate 0xFF) + 1) ∧
    (good.firstUnserved (good.dstReads (.direct 0xE0) ++ good.srcReads (.indirect 0x00) ++
        good.srcReads (.immediate 0x03) ++ [good.dstAddr (.direct 0xE0)]) = none ∧
      good.srcValue (.immediate 0x03) = good.srcValue (.indirect 0x00) + 1) := by decide

theorem test_hyp_IncAddsOneWithoutFlags :
    (good.firstUnserved (good.dstReads (.direct 0xE0) ++ [good.dstAddr (.direct 0xE0)]) = none ∧
      good.memAccepts (good.dstAddr (.direct 0xE0)) = true) ∧
    ((unwritten 0xE0).firstUnserved ((unwritten 0xE0).dstReads (.direct 0xE0) ++ [(unwritten 0xE0).dstAddr (.direct 0xE0)]) = none ∧
      (unwritten 0xE0).memAccepts ((unwritten 0xE0).dstAddr (.direct 0xE0)) = false) ∧
    (unread 0xE0).firstUnserved ((unread 0xE0).dstReads (.direct 0xE0) ++ [(unread 0xE0).dstAddr (.direct 0xE0)]) = some 0xE0 := by decide

theorem test_hyp_DecSubtractsOneWithoutFlags :
    (good.firstUnserved (good.dstReads (.indirect 0x00) ++ [good.dstAddr (.indirect 0x00)]) = none ∧
      good.memAccepts (good.dstAddr (.indirect 0x00)) = true) ∧
    ((unwritten 0x30).firstUnserved ((unwritten 0x30).dstReads (.indirect 0x00) ++ [(unwritten 0x30).dstAddr (.indirect 0x00)]) = none ∧
      (unwritten 0x30).memAccepts ((unwritten 0x30).dstAddr (.indirect 0x00)) = false) ∧
    (unread 0x30).firstUnserved ((unread 0x30).dstReads (.indirect 0x00) ++ [(unread 0x30).dstAddr (.indirect 0x00)]) = some 0x30 := by decide

/-- The test configuration with ROTATE_DEST = OPERAND. -/
def goodOperand : State := start { Config.test with rotateDest := .operand } cells [] full

/-- Under ACC and under OPERAND; a refused write of A; a byte not served. -/
theorem test_hyp_RlRotatesLeftIntoTarget :
    (good.firstUnserved (good.dstReads (.indirect 0xFF) ++ [good.dstAddr (.indirect 0xFF)]) = none ∧
      good.cfg.rotateDest = .acc ∧ good.memAccepts good.cfg.addrAcc = true) ∧
    (goodOperand.firstUnserved (goodOperand.dstReads (.indirect 0xFF) ++ [goodOperand.dstAddr (.indirect 0xFF)]) = none ∧
      goodOperand.cfg.rotateDest = .operand ∧ goodOperand.memAccepts (goodOperand.dstAddr (.indirect 0xFF)) = true) ∧
    ((unwritten 0xE0).firstUnserved ((unwritten 0xE0).dstReads (.indirect 0xFF) ++ [(unwritten 0xE0).dstAddr (.indirect 0xFF)]) = none ∧
      (unwritten 0xE0).memAccepts (unwritten 0xE0).cfg.addrAcc = false) ∧
    (unread 0xFF).firstUnserved ((unread 0xFF).dstReads (.indirect 0xFF) ++ [(unread 0xFF).dstAddr (.indirect 0xFF)]) = some 0xFF := by decide

/-- Under ACC and under OPERAND; a refused write of A; a byte not served. -/
theorem test_hyp_RrRotatesRightIntoTarget :
    (good.firstUnserved (good.dstReads (.direct 0x30) ++ [good.dstAddr (.direct 0x30)]) = none ∧
      good.cfg.rotateDest = .acc ∧ good.memAccepts good.cfg.addrAcc = true) ∧
    (goodOperand.firstUnserved (goodOperand.dstReads (.direct 0x30) ++ [goodOperand.dstAddr (.direct 0x30)]) = none ∧
      goodOperand.cfg.rotateDest = .operand ∧ goodOperand.memAccepts (goodOperand.dstAddr (.direct 0x30)) = true) ∧
    ((unwritten 0xE0).firstUnserved ((unwritten 0xE0).dstReads (.direct 0x30) ++ [(unwritten 0xE0).dstAddr (.direct 0x30)]) = none ∧
      (unwritten 0xE0).memAccepts (unwritten 0xE0).cfg.addrAcc = false) ∧
    (unread 0x30).firstUnserved ((unread 0x30).dstReads (.direct 0x30) ++ [(unread 0x30).dstAddr (.direct 0x30)]) = some 0x30 := by decide

/-- OPERAND with operand 0x30; ACC with operand A; ACC with operand 0x30. -/
theorem test_hyp_RotateRoundTrip :
    (∃ t u, exec (.rl (.direct 0x30)) goodOperand = .next t ∧ exec (.rr (.direct 0x30)) t = .next u ∧
      t.status = .ok ∧ u.status = .ok ∧ t.dstAddr (.direct 0x30) = goodOperand.dstAddr (.direct 0x30) ∧
      goodOperand.cfg.rotateDest = .operand) ∧
    (∃ t u, exec (.rl (.direct 0xE0)) good = .next t ∧ exec (.rr (.direct 0xE0)) t = .next u ∧
      t.status = .ok ∧ u.status = .ok ∧ t.dstAddr (.direct 0xE0) = good.dstAddr (.direct 0xE0) ∧
      good.dstAddr (.direct 0xE0) = good.cfg.addrAcc) ∧
    (∃ t u, exec (.rl (.indirect 0x00)) good = .next t ∧ exec (.rr (.indirect 0x00)) t = .next u ∧
      t.status = .ok ∧ u.status = .ok ∧ t.dstAddr (.indirect 0x00) = good.dstAddr (.indirect 0x00) ∧
      good.cfg.rotateDest = .acc ∧ good.dstAddr (.indirect 0x00) ≠ good.cfg.addrAcc) :=
  ⟨⟨_, _, rfl, rfl, rfl, rfl, rfl, rfl⟩, ⟨_, _, rfl, rfl, rfl, rfl, rfl, rfl⟩,
    ⟨_, _, rfl, rfl, rfl, rfl, rfl, rfl, by decide⟩⟩

/-- 99 and 100 under FAULT, 255 under TRUNCATE. -/
theorem test_hyp_DaConvertsToDecimalDigits :
    (good.firstUnserved (good.dstReads (.direct 0xE0) ++ [good.dstAddr (.direct 0xE0)]) = none ∧
      good.cfg.daWide = .truncate ∧ good.memAccepts (good.dstAddr (.direct 0xE0)) = true) ∧
    ((start { Config.test with daWide := .fault } [(0x30, 99)] [] full).firstUnserved [0x30] = none ∧
      ((start { Config.test with daWide := .fault } [(0x30, 99)] [] full).dstValue (.direct 0x30)).toNat < 100) ∧
    ((unwritten 0xE0).firstUnserved ((unwritten 0xE0).dstReads (.direct 0xE0) ++ [(unwritten 0xE0).dstAddr
        (.direct 0xE0)]) = none ∧ (unwritten 0xE0).memAccepts ((unwritten 0xE0).dstAddr (.direct 0xE0)) = false) ∧
    ((start { Config.test with daWide := .fault } [(0x30, 100)] [] full).firstUnserved [0x30] = none ∧
      ((start { Config.test with daWide := .fault } [(0x30, 100)] [] full).dstValue (.direct 0x30)).toNat ≥ 100 ∧
      (start { Config.test with daWide := .fault } [(0x30, 100)] [] full).cfg.daWide = .fault) ∧
    (unread 0x30).firstUnserved ((unread 0x30).dstReads (.indirect 0x00) ++ [(unread 0x30).dstAddr (.indirect 0x00)]) =
      some 0x30 := by decide

theorem test_hyp_OrgSetsProgramCounter :
    good.pcAccepts 0xFFFF = true ∧
    (start { Config.test with pcRefused := [0xFFFF] } [] [] clear).pcAccepts 0xFFFF = false ∧
    (answering [false]).pcAccepts 0xFFFF = false ∧
    ((good.withFetchWord 48 0x0B000000FFFF).pcAccepts 0xFFFF = true ∧
      (good.withFetchWord 48 0x0B000000FFFF).stopped = false ∧
      (good.withFetchWord 48 0x0B000000FFFF).prog.word? (good.withFetchWord 48 0x0B000000FFFF).pc =
        some 0x0B000000FFFF ∧ decode 0x0B000000FFFF = .ok (.org 0xFFFF)) :=
  ⟨rfl, rfl, rfl, rfl, rfl, rfl, rfl⟩

/-- Both results of `mul` go to A, and the second of the two writes is refused. -/
def oneProductByte : State :=
  { start { Config.test with mulHiAddr := 0xE0 } cells [] full with answers := [true, false] }

/-- 255 * 255; both products' bytes accepted; the low one refused; the high one refused, at its own address and at the
address of the low one; B not served. -/
theorem test_hyp_MulWritesProductBytes :
    (∃ p f, p = good.acc.toNat * good.regB.toNat ∧
      f = { good with psw := { good.psw with cy := false, ov := decide (p / 256 ≠ 0) } }) ∧
    (good.firstUnserved [good.cfg.addrAcc, good.cfg.addrB] = none ∧ good.memAccepts good.cfg.mulLoAddr = true ∧
      good.answered.memAccepts good.cfg.mulHiAddr = true) ∧
    ((unwritten 0xE0).firstUnserved [(unwritten 0xE0).cfg.addrAcc, (unwritten 0xE0).cfg.addrB] = none ∧
      (unwritten 0xE0).memAccepts (unwritten 0xE0).cfg.mulLoAddr = false) ∧
    ((unwritten 0xF0).firstUnserved [(unwritten 0xF0).cfg.addrAcc, (unwritten 0xF0).cfg.addrB] = none ∧
      (unwritten 0xF0).memAccepts (unwritten 0xF0).cfg.mulLoAddr = true ∧
      (unwritten 0xF0).answered.memAccepts (unwritten 0xF0).cfg.mulHiAddr = false) ∧
    (oneProductByte.firstUnserved [oneProductByte.cfg.addrAcc, oneProductByte.cfg.addrB] = none ∧
      oneProductByte.memAccepts oneProductByte.cfg.mulLoAddr = true ∧
      oneProductByte.answered.memAccepts oneProductByte.cfg.mulHiAddr = false) ∧
    (unread 0xF0).firstUnserved [(unread 0xF0).cfg.addrAcc, (unread 0xF0).cfg.addrB] = some 0xF0 :=
  ⟨⟨_, _, rfl, rfl⟩, by decide, by decide, by decide, by decide, by decide⟩

/-- A machine whose bit collaborator does not serve 0x80 and refuses a write of 0xFF. -/
def badBits : State := start { Config.test with bitUnserved := [0x80], bitWriteRefused := [0xFF] } cells [] full

theorem test_hyp_SetbSetsBit : good.bitAccepts 0xFF = true ∧ badBits.bitAccepts 0xFF = false := by decide

theorem test_hyp_ClrClearsBit : good.bitAccepts 0x00 = true ∧ badBits.bitAccepts 0x80 = false := by decide

theorem test_hyp_CplComplementsBit :
    (good.bitServes 0xFF = true ∧ good.bitAccepts 0xFF = true) ∧
    (badBits.bitServes 0xFF = true ∧ badBits.bitAccepts 0xFF = false) ∧ badBits.bitServes 0x80 = false ∧
    (∃ t u, exec (.cpl 0xFF) good = .next t ∧ exec (.cpl 0xFF) t = .next u ∧ t.status = .ok ∧ u.status = .ok) :=
  ⟨by decide, by decide, rfl, ⟨_, _, rfl, rfl, rfl, rfl⟩⟩

/-- A = 0 with everything served. -/
def zeroAcc : State := start .test [] [] clear

theorem test_hyp_JzJumpsWhenAccumulatorZero :
    (zeroAcc.memServes zeroAcc.cfg.addrAcc = true ∧ zeroAcc.acc = 0 ∧ zeroAcc.labels.address? 0x0001 = some 0x0040) ∧
    zeroAcc.labels.address? 0xFFFF = none ∧ (good.memServes good.cfg.addrAcc = true ∧ good.acc ≠ 0) ∧
    (unread 0xE0).memServes (unread 0xE0).cfg.addrAcc = false := by decide

theorem test_hyp_JnzJumpsWhenAccumulatorNonzero :
    (good.memServes good.cfg.addrAcc = true ∧ good.acc ≠ 0 ∧ good.labels.address? 0x0001 = some 0x0040) ∧
    good.labels.address? 0x0000 = none ∧ (zeroAcc.memServes zeroAcc.cfg.addrAcc = true ∧ zeroAcc.acc = 0) ∧
    (unread 0xE0).memServes (unread 0xE0).cfg.addrAcc = false := by decide

theorem test_hyp_JcJumpsWhenCarrySet :
    (good.psw.cy = true ∧ good.labels.address? 0x0001 = some 0x0040 ∧ good.labels.address? 0xFFFF = none) ∧
    zeroAcc.psw.cy = false := by decide

theorem test_hyp_JncJumpsWhenCarryClear :
    (zeroAcc.psw.cy = false ∧ zeroAcc.labels.address? 0x0001 = some 0x0040 ∧ zeroAcc.labels.address? 0xFFFF = none) ∧
    good.psw.cy = true := by decide

/-- The operand byte is 2 (jump), then 1 (no jump). -/
theorem test_hyp_DjnzDecrementsAndJumps :
    (good.firstUnserved (good.dstReads (.indirect 0x00) ++ [good.dstAddr (.indirect 0x00)]) = none ∧
      good.memAccepts (good.dstAddr (.indirect 0x00)) = true ∧ good.mem.read (good.dstAddr (.indirect 0x00)) ≠ 1 ∧
      good.labels.address? 0x0001 = some 0x0040 ∧ good.labels.address? 0xFFFF = none) ∧
    ((start .test [(0x30, 1)] [] full).firstUnserved ((start .test [(0x30, 1)] [] full).dstReads (.direct 0x30) ++
        [(start .test [(0x30, 1)] [] full).dstAddr (.direct 0x30)]) = none ∧
      (start .test [(0x30, 1)] [] full).memAccepts ((start .test [(0x30, 1)] [] full).dstAddr (.direct 0x30)) = true ∧
      (start .test [(0x30, 1)] [] full).mem.read ((start .test [(0x30, 1)] [] full).dstAddr (.direct 0x30)) = 1) ∧
    ((unwritten 0x30).firstUnserved ((unwritten 0x30).dstReads (.indirect 0x00) ++
        [(unwritten 0x30).dstAddr (.indirect 0x00)]) = none ∧
      (unwritten 0x30).memAccepts ((unwritten 0x30).dstAddr (.indirect 0x00)) = false) ∧
    (unread 0x00).firstUnserved ((unread 0x00).dstReads (.indirect 0x00) ++ [(unread 0x00).dstAddr (.indirect 0x00)]) =
      some 0x00 := by decide

/-- A is 0 (jump, wrapping to 0xFF), then 1 (no jump). -/
theorem test_hyp_DjnzAccDecrementsAndJumps :
    (zeroAcc.firstUnserved [zeroAcc.cfg.addrAcc] = none ∧ zeroAcc.memAccepts zeroAcc.cfg.addrAcc = true ∧
      zeroAcc.mem.read zeroAcc.cfg.addrAcc ≠ 1 ∧ zeroAcc.labels.address? 0x0001 = some 0x0040 ∧
      zeroAcc.labels.address? 0xFFFF = none) ∧
    ((start .test [(0xE0, 1)] [] full).firstUnserved [0xE0] = none ∧
      (start .test [(0xE0, 1)] [] full).memAccepts 0xE0 = true ∧
      (start .test [(0xE0, 1)] [] full).mem.read (start .test [(0xE0, 1)] [] full).cfg.addrAcc = 1) ∧
    ((unwritten 0xE0).firstUnserved [(unwritten 0xE0).cfg.addrAcc] = none ∧
      (unwritten 0xE0).memAccepts (unwritten 0xE0).cfg.addrAcc = false) ∧
    (unread 0xE0).firstUnserved [(unread 0xE0).cfg.addrAcc] = some 0xE0 := by decide

/-- Different values with and without a label; equal values; a byte not served. -/
theorem test_hyp_CjneComparesAndJumps :
    (∃ f, f = { good with psw := { good.psw with
      cy := decide ((good.dstValue (.indirect 0x00)).toNat < (good.srcValue (.immediate 0x03)).toNat) } }) ∧
    (good.firstUnserved (good.dstReads (.indirect 0x00) ++ good.srcReads (.immediate 0x03) ++
        [good.dstAddr (.indirect 0x00)]) = none ∧
      good.dstValue (.indirect 0x00) ≠ good.srcValue (.immediate 0x03) ∧
      good.labels.address? 0x0001 = some 0x0040 ∧ good.labels.address? 0xFFFF = none) ∧
    (good.firstUnserved (good.dstReads (.direct 0xE0) ++ good.srcReads (.indirect 0xFF) ++
        [good.dstAddr (.direct 0xE0)]) = none ∧ good.dstValue (.direct 0xE0) = good.srcValue (.indirect 0xFF)) ∧
    (unread 0xFF).firstUnserved ((unread 0xFF).dstReads (.direct 0xE0) ++ (unread 0xFF).srcReads (.indirect 0xFF) ++
      [(unread 0xFF).dstAddr (.direct 0xE0)]) = some 0xFF :=
  ⟨⟨_, rfl⟩, by decide, by decide, by decide⟩

theorem test_hyp_JbJnbRaiseNotImplemented :
    (0x26FFFFFFFFFF : CW).extractLsb' 40 8 = 0x26 ∧ (0x270000000000 : CW).extractLsb' 40 8 = 0x27 := by decide

theorem test_hyp_EveryCommandReturnsOneStatus :
    good.target = none ∧ (∃ t, exec (.org 0xFFFF) good = .next t ∧ t.xfer = true) ∧
    (∃ t, exec (.jc 0xFFFF) good = .next t ∧ t.status ≠ .ok) :=
  ⟨rfl, ⟨_, rfl, rfl⟩, ⟨_, rfl, by decide⟩⟩

/-- Each clause: `cjne` writes CY alone, `anl` P and OV alone, `mul` CY and OV, `mov` none; `mul` completes. -/
theorem test_hyp_FlagWriteMatrix :
    ((∃ t, exec (.anlDirImm 0xE0 0x80) good = .next t) ∧ (flagsWritten (Instr.anlDirImm 0xE0 0x80).mnemonic).1 = false ∧
      (flagsWritten (Instr.anlDirImm 0xE0 0x80).mnemonic).2.1 = false) ∧
    ((∃ t, exec (.cjneDirImm 0xE0 0x80 0x0001) good = .next t) ∧
      (flagsWritten (Instr.cjneDirImm 0xE0 0x80 0x0001).mnemonic).2.2.1 = false ∧
      (flagsWritten (Instr.cjneDirImm 0xE0 0x80 0x0001).mnemonic).2.2.2 = false) ∧
    (∃ t, exec .mul good = .next t ∧ Instr.mul.mnemonic = .mul ∧ t.status = .ok) :=
  ⟨⟨⟨_, rfl⟩, rfl, rfl⟩, ⟨⟨_, rfl⟩, rfl, rfl⟩, ⟨_, rfl, rfl, rfl⟩⟩

theorem test_hyp_FailuresEachCommandCanReturn :
    (∃ t, exec (.djnzInd 0x00 0xFFFF) good = .next t ∧ t.status = .jumpFail) ∧
    (∃ t, exec (.movDirImm 0x00 0xFF) good = .next t ∧ t.status = .ok) :=
  ⟨⟨_, rfl, rfl⟩, ⟨_, rfl, rfl⟩⟩

theorem test_hyp_OtherFailuresLeaveNoEffect :
    (∃ t, exec (.incDir 0xE0) (unwritten 0xE0) = .next t ∧ t.status ≠ .ok ∧
      leavesPartialEffects (Instr.incDir 0xE0).mnemonic = false) ∧
    (∃ t, exec (.setb 0xFF) (answering [false]) = .next t ∧ t.status ≠ .ok ∧
      leavesPartialEffects (Instr.setb 0xFF).mnemonic = false) :=
  ⟨⟨_, rfl, by decide, rfl⟩, ⟨_, rfl, by decide, rfl⟩⟩

theorem test_hyp_CoreDependsOnNoOtherState : ∃ t, exec (.subbIndInd 0xFF 0x00) good = .next t := ⟨_, rfl⟩

theorem test_hyp_BytesBitsAndFlagsAreSeparate :
    (∃ t, exec (.setb 0xE0) good = .next t) ∧ (Instr.setb 0xE0).mnemonic = .setb ∧
    (∃ t, exec (.movDirImm 0xE0 0x00) good = .next t) ∧ (Instr.movDirImm 0xE0 0x00).mnemonic ≠ .setb ∧
    (Instr.movDirImm 0xE0 0x00).mnemonic ≠ .clr ∧ (Instr.movDirImm 0xE0 0x00).mnemonic ≠ .cpl :=
  ⟨⟨_, rfl⟩, rfl, ⟨_, rfl⟩, by decide, by decide, by decide⟩

theorem test_hyp_NoCommandChangesProgramOrTables :
    (∃ t, exec (.org 0xFFFF) good = .next t) ∧ (∃ t, step (good.withFetchWord 48 0x0B000000FFFF) = .next t) :=
  ⟨⟨_, rfl⟩, ⟨_, rfl⟩⟩

theorem test_hyp_HostWriteChangesOneFlagByteOrBit :
    Flag.ov ≠ Flag.cy ∧ good.labels.address? 0x0001 = some 0x0040 ∧ (0x00 : Byte) ≠ 0xFF := by decide

/-- A completed store through a pointer, and a pointer that is not served. -/
theorem test_hyp_TwoOperandFrame :
    (∃ t, exec (.add (.indirect 0x00) (.direct 0xFF)) good = .next t) ∧
    (∃ ea u, (resolveDst (.indirect 0x00)).run good = .ok ea u ∧ (0xFF : Byte) ≠ ea) ∧
    (∃ t, exec (.mov (.indirect 0x00) (.immediate 0xFF)) (unread 0x00) = .next t) ∧
    (∃ e u, (resolveDst (.indirect 0x00)).run (unread 0x00) = .error e u) :=
  ⟨⟨_, rfl⟩, ⟨_, _, rfl, by decide⟩, ⟨_, rfl⟩, ⟨_, _, rfl⟩⟩

theorem test_hyp_OneOperandFrame :
    (∃ t, exec (.da (.indirect 0x00)) good = .next t) ∧
    (∃ ea u, (resolveDst (.indirect 0x00)).run good = .ok ea u ∧ (0x31 : Byte) ≠ ea) ∧
    (∃ t, exec (.inc (.indirect 0xFF)) (unread 0xFF) = .next t) ∧
    (∃ e u, (resolveDst (.indirect 0xFF)).run (unread 0xFF) = .error e u) :=
  ⟨⟨_, rfl⟩, ⟨_, _, rfl, by decide⟩, ⟨_, rfl⟩, ⟨_, _, rfl⟩⟩

theorem test_hyp_RotateFrame :
    (∃ t, exec (.rl (.indirect 0x00)) good = .next t) ∧
    (∃ ea u, (resolveDst (.indirect 0x00)).run good = .ok ea u ∧ (0x30 : Byte) ≠ rotateTarget good.cfg ea) ∧
    (∃ t, exec (.rr (.indirect 0xFF)) (unread 0xFF) = .next t) ∧
    (∃ e u, (resolveDst (.indirect 0xFF)).run (unread 0xFF) = .error e u) :=
  ⟨⟨_, rfl⟩, ⟨_, _, rfl, by decide⟩, ⟨_, rfl⟩, ⟨_, _, rfl⟩⟩

theorem test_hyp_MulFrame :
    (∃ t, exec .mul good = .next t) ∧ (0x00 : Byte) ≠ good.cfg.mulLoAddr ∧ (0x00 : Byte) ≠ good.cfg.mulHiAddr :=
  ⟨⟨_, rfl⟩, by decide, by decide⟩

theorem test_hyp_BitCommandFrame : (∃ t, exec (.cpl 0xFF) good = .next t) ∧ (0x00 : Byte) ≠ 0xFF :=
  ⟨⟨_, rfl⟩, by decide⟩

/-- With a transfer, and without one. -/
theorem test_hyp_TransferFrame :
    (∃ t, exec (.org 0xFFFF) good = .next t ∧ t.xfer = true) ∧ (∃ t, exec (.jnc 0xFFFF) good = .next t ∧ t.xfer = false) :=
  ⟨⟨_, rfl, rfl⟩, ⟨_, rfl, rfl⟩⟩

theorem test_hyp_LoopAndCompareFrame :
    (∃ t, exec (.djnz (.indirect 0x00) 0x0001) good = .next t) ∧
    (∃ ea u, (resolveDst (.indirect 0x00)).run good = .ok ea u ∧ (0x00 : Byte) ≠ ea) ∧
    (∃ t, exec (.djnz (.indirect 0xFF) 0x0001) (unread 0xFF) = .next t ∧ t.xfer = false) ∧
    (∃ e u, (resolveDst (.indirect 0xFF)).run (unread 0xFF) = .error e u) ∧
    (∃ t, exec (.djnzAcc 0x0001) good = .next t) ∧ (0x00 : Byte) ≠ good.cfg.addrAcc ∧
    (∃ t, exec (.cjne (.direct 0xE0) (.indirect 0xFF) 0x0001) good = .next t ∧ t.xfer = false) :=
  ⟨⟨_, rfl⟩, ⟨_, _, rfl, by decide⟩, ⟨_, rfl, rfl⟩, ⟨_, _, rfl⟩, ⟨_, rfl⟩, by decide, ⟨_, rfl, rfl⟩⟩

end Sys2Proof.Tests
end

section
/-! The state of the core (10_state.md R22, R26, R29, R30): the launch meets the invariant, no command reads the
dispatcher's registers, the program or the last status, and a host write changes one flag, byte or bit. -/

namespace Sys2Proof.Machine

variable {α β : Type}

/-! ### Launch -/

/-- A launch with tables in canonical form meets the invariant, whatever the platform chose: its status port shows OK
with INFO 0 and no transfer, and the run has not ended. -/
theorem State.inv_launch (cfg : Config) (psw : Psw) (entry : Half) (answers : List Bool) {mem : Memory}
    {bits : BitMemory} {prog : Program} {labels : Labels} (hmem : mem.wf = true) (hbits : bits.wf = true)
    (hprog : prog.wf = true) (hlabels : labels.wf = true) :
    (State.launch cfg psw mem bits prog labels entry answers).Inv where
  memWf := hmem
  bitsWf := hbits
  progWf := hprog
  labelsWf := hlabels
  okInfo _ := rfl
  xferOk _ := rfl
  xferTarget h := absurd h Bool.false_ne_true
  stoppedFailed h := absurd h Bool.false_ne_true

/-- Settles O11: reset is a launch whose four tables are empty. -/
theorem resetSatisfiesInvariant : Obligations.ResetSatisfiesInvariant :=
  State.inv_launch .test _ 0 [] rfl rfl rfl rfl

/-! ### The fields no command reads -/

/-- Values for the fields of a state that are no input of a command: the dispatcher's registers and program, the last
status, and whether the run has ended. -/
structure Unread where
  pc : Half
  entry : Half
  prog : Program
  status : Status
  info : Half
  xfer : Xfer
  stopped : Bool

/-- The state with these values in the fields no command reads. -/
def State.withUnread (s : State) (u : Unread) : State :=
  { s with pc := u.pc, entry := u.entry, prog := u.prog, status := u.status, info := u.info, xfer := u.xfer,
           stopped := u.stopped }

/-- The result of a piece of a command with these values in the state it leaves. -/
def Cmd.resultWithUnread (u : Unread) (r : EStateM.Result Failure State α) : EStateM.Result Failure State α :=
  match r with
  | .ok a t => .ok a (t.withUnread u)
  | .error e t => .error e (t.withUnread u)

/-- With other values in the fields no command reads, the piece gives the same result and leaves those values. -/
def Cmd.Ignores (u : Unread) (c : Cmd α) : Prop :=
  ∀ s, c.run (s.withUnread u) = Cmd.resultWithUnread u (c.run s)

variable {u : Unread}

theorem Cmd.Ignores.bind {c : Cmd α} {f : α → Cmd β} (hc : Cmd.Ignores u c) (hf : ∀ a, Cmd.Ignores u (f a)) :
    Cmd.Ignores u (c >>= f) := by
  intro s
  have h := hc s
  cases hr : c.run s with
  | ok a t => rw [hr] at h; rw [Cmd.run_bind_ok h, Cmd.run_bind_ok hr]; exact hf a t
  | error e t => rw [hr] at h; rw [Cmd.run_bind_error h, Cmd.run_bind_error hr]; rfl

/-! ### Statements ignore them -/

theorem ignores_pure (a : α) : Cmd.Ignores u (pure a) := fun _ => rfl

theorem ignores_raise (st : Status) (n : Half) : Cmd.Ignores u (raise st n : Cmd α) := fun _ => rfl

theorem ignores_finish : Cmd.Ignores u finish := fun _ => rfl

theorem ignores_finishJumped : Cmd.Ignores u finishJumped := fun _ => rfl

theorem ignores_getPsw : Cmd.Ignores u getPsw := fun _ => rfl

theorem ignores_getConfig : Cmd.Ignores u getConfig := fun _ => rfl

theorem ignores_writeCy (x : Bool) : Cmd.Ignores u (writeCy x) := fun _ => rfl

theorem ignores_writeOv (x : Bool) : Cmd.Ignores u (writeOv x) := fun _ => rfl

theorem ignores_compute (a b : Byte) (m : ComputeMode) (en : FlagEnables) : Cmd.Ignores u (compute a b m en) :=
  fun _ => rfl

theorem ignores_logicFlags (r : Byte) : Cmd.Ignores u (logicFlags r) := fun _ => rfl

theorem ignores_memRead (a : Byte) : Cmd.Ignores u (memRead a) := fun s => by
  cases h : s.memServes a with
  | true => rw [memRead_ok h]; exact memRead_ok h
  | false => rw [memRead_fail h]; exact memRead_fail h

theorem ignores_memWrite (a v : Byte) : Cmd.Ignores u (memWrite a v) := fun s => by
  cases h : s.memAccepts a with
  | true => rw [memWrite_ok v h]; exact memWrite_ok v h
  | false => rw [memWrite_fail v h]; exact memWrite_fail v h

theorem ignores_bitRead (b : Byte) : Cmd.Ignores u (bitRead b) := fun s => by
  cases h : s.bitServes b with
  | true => rw [bitRead_ok h]; exact bitRead_ok h
  | false => rw [bitRead_fail h]; exact bitRead_fail h

theorem ignores_bitWrite (b : Byte) (x : Bool) : Cmd.Ignores u (bitWrite b x) := fun s => by
  cases h : s.bitAccepts b with
  | true => rw [bitWrite_ok x h]; exact bitWrite_ok x h
  | false => rw [bitWrite_fail x h]; exact bitWrite_fail x h

theorem ignores_pcSet (t : Half) : Cmd.Ignores u (pcSet t) := fun s => by
  cases h : s.pcAccepts t with
  | true => rw [pcSet_ok h]; exact pcSet_ok h
  | false => rw [pcSet_fail h]; exact pcSet_fail h

theorem ignores_jump (l : Half) : Cmd.Ignores u (jump l) := fun s => by
  cases h : s.labels.address? l with
  | some t => rw [jump_ok h]; exact jump_ok h
  | none => rw [jump_fail h]; exact jump_fail h

theorem ignores_branch (c : Bool) (l : Half) : Cmd.Ignores u (branch c l) := by
  cases c with
  | true => exact (ignores_jump l).bind fun _ => ignores_finishJumped
  | false => exact ignores_finish

theorem ignores_resolveDst (d : Dst) : Cmd.Ignores u (resolveDst d) := by
  cases d with
  | direct a => exact ignores_pure a
  | indirect p => exact ignores_memRead p

theorem ignores_resolveSrc (v : Src) : Cmd.Ignores u (resolveSrc v) := by
  cases v with
  | direct a => exact ignores_memRead a
  | indirect p => exact (ignores_memRead p).bind fun a => ignores_memRead a
  | immediate x => exact ignores_pure x

theorem ignores_takeCarryIn (x : Byte) : Cmd.Ignores u (takeCarryIn x) := by
  refine ignores_getPsw.bind fun psw => ?_
  split
  · exact (ignores_writeCy false).bind fun _ => ignores_pure _
  · exact ignores_pure _

theorem ignores_daRangeCheck (a : Byte) : Cmd.Ignores u (daRangeCheck a) := by
  refine ignores_getConfig.bind fun cfg => ?_
  split
  · exact ignores_raise _ _
  · exact ignores_pure _

/-! ### Commands ignore them -/

theorem ignores_memWrite_finish (a v : Byte) : Cmd.Ignores u (memWrite a v >>= fun _ => finish) :=
  (ignores_memWrite a v).bind fun _ => ignores_finish

theorem ignores_bitWrite_finish (b : Byte) (x : Bool) : Cmd.Ignores u (bitWrite b x >>= fun _ => finish) :=
  (ignores_bitWrite b x).bind fun _ => ignores_finish

/-- A command that resolves and reads one operand. -/
theorem ignores_operand (d : Dst) {f : Byte → Byte → Cmd α} (hf : ∀ ea x, Cmd.Ignores u (f ea x)) :
    Cmd.Ignores u (resolveDst d >>= fun ea => memRead ea >>= fun x => f ea x) :=
  (ignores_resolveDst d).bind fun ea => (ignores_memRead ea).bind fun x => hf ea x

/-- A command that resolves two operands and reads the first. -/
theorem ignores_operands (d : Dst) (v : Src) {f : Byte → Byte → Byte → Cmd α}
    (hf : ∀ ea y x, Cmd.Ignores u (f ea y x)) :
    Cmd.Ignores u (resolveDst d >>= fun ea => resolveSrc v >>= fun y => memRead ea >>= fun x => f ea y x) :=
  (ignores_resolveDst d).bind fun ea => (ignores_resolveSrc v).bind fun y => (ignores_memRead ea).bind fun x => hf ea y x

theorem ignores_movCommand (d : Dst) (v : Src) : Cmd.Ignores u (movCommand d v) :=
  (ignores_resolveDst d).bind fun _ => (ignores_resolveSrc v).bind fun _ => ignores_memWrite_finish _ _

theorem ignores_addCommand (d : Dst) (v : Src) : Cmd.Ignores u (addCommand d v) :=
  ignores_operands d v fun _ _ _ => (ignores_compute _ _ _ _).bind fun _ => ignores_memWrite_finish _ _

theorem ignores_subbCommand (d : Dst) (v : Src) : Cmd.Ignores u (subbCommand d v) :=
  ignores_operands d v fun _ y _ => (ignores_takeCarryIn y).bind fun _ =>
    (ignores_compute _ _ _ _).bind fun _ => ignores_memWrite_finish _ _

theorem ignores_anlCommand (d : Dst) (v : Src) : Cmd.Ignores u (anlCommand d v) :=
  ignores_operands d v fun _ _ _ => (ignores_logicFlags _).bind fun _ => ignores_memWrite_finish _ _

theorem ignores_orlCommand (d : Dst) (v : Src) : Cmd.Ignores u (orlCommand d v) :=
  ignores_operands d v fun _ _ _ => (ignores_logicFlags _).bind fun _ => ignores_memWrite_finish _ _

theorem ignores_incCommand (d : Dst) : Cmd.Ignores u (incCommand d) :=
  ignores_operand d fun _ _ => ignores_memWrite_finish _ _

theorem ignores_decCommand (d : Dst) : Cmd.Ignores u (decCommand d) :=
  ignores_operand d fun _ _ => (ignores_compute _ _ _ _).bind fun _ => ignores_memWrite_finish _ _

theorem ignores_rlCommand (d : Dst) : Cmd.Ignores u (rlCommand d) :=
  ignores_operand d fun _ _ => ignores_getConfig.bind fun _ => ignores_memWrite_finish _ _

theorem ignores_rrCommand (d : Dst) : Cmd.Ignores u (rrCommand d) :=
  ignores_operand d fun _ _ => ignores_getConfig.bind fun _ => ignores_memWrite_finish _ _

theorem ignores_daCommand (d : Dst) : Cmd.Ignores u (daCommand d) :=
  ignores_operand d fun _ x => (ignores_daRangeCheck x).bind fun _ => ignores_memWrite_finish _ _

theorem ignores_orgCommand (a : Half) : Cmd.Ignores u (orgCommand a) :=
  (ignores_pcSet a).bind fun _ => ignores_finishJumped

theorem ignores_mulCommand : Cmd.Ignores u mulCommand :=
  ignores_getConfig.bind fun _ => (ignores_memRead _).bind fun _ => (ignores_memRead _).bind fun _ =>
    (ignores_writeCy _).bind fun _ => (ignores_writeOv _).bind fun _ =>
    (ignores_memWrite _ _).bind fun _ => ignores_memWrite_finish _ _

theorem ignores_cplCommand (b : Byte) : Cmd.Ignores u (cplCommand b) :=
  (ignores_bitRead b).bind fun _ => ignores_bitWrite_finish _ _

/-- `jz` and `jnz`: a branch on the accumulator. -/
theorem ignores_branchOnAcc (cond : Byte → Bool) (l : Half) :
    Cmd.Ignores u (getConfig >>= fun cfg => memRead cfg.addrAcc >>= fun a => branch (cond a) l) :=
  ignores_getConfig.bind fun _ => (ignores_memRead _).bind fun _ => ignores_branch _ _

/-- `jc` and `jnc`: a branch on PSW. -/
theorem ignores_branchOnPsw (cond : Psw → Bool) (l : Half) :
    Cmd.Ignores u (getPsw >>= fun psw => branch (cond psw) l) :=
  ignores_getPsw.bind fun _ => ignores_branch _ _

theorem ignores_decrementAndBranch (ea : Byte) (l : Half) : Cmd.Ignores u (decrementAndBranch ea l) :=
  (ignores_memRead ea).bind fun _ => (ignores_compute _ _ _ _).bind fun _ =>
    (ignores_memWrite _ _).bind fun _ => ignores_branch _ _

theorem ignores_djnzCommand (d : Dst) (l : Half) : Cmd.Ignores u (djnzCommand d l) :=
  (ignores_resolveDst d).bind fun ea => ignores_decrementAndBranch ea l

theorem ignores_djnzAccCommand (l : Half) : Cmd.Ignores u (djnzAccCommand l) :=
  ignores_getConfig.bind fun _ => ignores_decrementAndBranch _ l

theorem ignores_cjneCommand (d : Dst) (v : Src) (l : Half) : Cmd.Ignores u (cjneCommand d v l) := by
  refine ignores_operands d v fun _ y x => ?_
  split
  · exact (ignores_writeCy _).bind fun _ => ignores_branch _ _
  · exact (ignores_writeCy _).bind fun _ => ignores_branch _ _

theorem ignores_commandOf (i : Instr) : Cmd.Ignores u (commandOf i) :=
  match i with
  | .movDirDir _ _ | .movDirInd _ _ | .movDirImm _ _ | .movIndDir _ _ | .movIndInd _ _ | .movIndImm _ _ =>
    ignores_movCommand _ _
  | .addDirDir _ _ | .addDirInd _ _ | .addDirImm _ _ | .addIndDir _ _ | .addIndInd _ _ | .addIndImm _ _ =>
    ignores_addCommand _ _
  | .subbDirDir _ _ | .subbDirInd _ _ | .subbDirImm _ _ | .subbIndDir _ _ | .subbIndInd _ _ | .subbIndImm _ _ =>
    ignores_subbCommand _ _
  | .anlDirDir _ _ | .anlDirInd _ _ | .anlDirImm _ _ | .anlIndDir _ _ | .anlIndInd _ _ | .anlIndImm _ _ =>
    ignores_anlCommand _ _
  | .orlDirDir _ _ | .orlDirInd _ _ | .orlDirImm _ _ | .orlIndDir _ _ | .orlIndInd _ _ | .orlIndImm _ _ =>
    ignores_orlCommand _ _
  | .incDir _ | .incInd _ => ignores_incCommand _
  | .decDir _ | .decInd _ => ignores_decCommand _
  | .rlDir _ | .rlInd _ => ignores_rlCommand _
  | .rrDir _ | .rrInd _ => ignores_rrCommand _
  | .daDir _ | .daInd _ => ignores_daCommand _
  | .org _ => ignores_orgCommand _
  | .mul => ignores_mulCommand
  | .setb _ | .clr _ => ignores_bitWrite_finish _ _
  | .cpl _ => ignores_cplCommand _
  | .jz l => ignores_branchOnAcc (· == 0) l
  | .jnz l => ignores_branchOnAcc (· != 0) l
  | .jc l => ignores_branchOnPsw (·.cy) l
  | .jnc l => ignores_branchOnPsw (!·.cy) l
  | .djnzDir _ _ | .djnzInd _ _ => ignores_djnzCommand _ _
  | .djnzAcc _ => ignores_djnzAccCommand _
  | .cjneDirDir _ _ _ | .cjneDirInd _ _ _ | .cjneDirImm _ _ _ | .cjneIndDir _ _ _ | .cjneIndInd _ _ _
  | .cjneIndImm _ _ _ => ignores_cjneCommand _ _ _
  | .jb | .jnb => ignores_raise _ _

/-- The status a command ends with does not depend on the values it ignores either. -/
theorem runCommand_withUnread {c : Cmd Xfer} (hc : Cmd.Ignores u c) {s t : State} (h : runCommand c s = .next t) :
    runCommand c (s.withUnread u) =
      .next { t with pc := u.pc, entry := u.entry, prog := u.prog, stopped := u.stopped } := by
  have hu := hc s
  cases hr : c.run s with
  | ok x v =>
    rw [hr] at hu
    rw [runCommand_ok hr] at h
    cases h
    exact runCommand_ok hu
  | error e v =>
    rw [hr] at hu
    rw [runCommand_error hr] at h
    cases h
    exact runCommand_error hu

/-- Settles O49: every statement a command is made of ignores those fields, and so does every sequence of them. -/
theorem coreDependsOnNoOtherState : Obligations.CoreDependsOnNoOtherState := by
  intro i s t pc entry g st n x z h
  rw [exec_eq] at h ⊢
  exact runCommand_withUnread (u := ⟨pc, entry, g, st, n, x, z⟩) (ignores_commandOf i) h

/-! ### Host writes between commands -/

@[simp] theorem State.readFlag_writeFlag_self (s : State) (f : Flag) (x : Bool) : (s.writeFlag f x).readFlag f = x := by
  cases f <;> rfl

theorem State.readFlag_writeFlag_of_ne (s : State) {f g : Flag} (x : Bool) (h : g ≠ f) :
    (s.writeFlag f x).readFlag g = s.readFlag g := by
  cases f with
  | cy => cases g with | cy => exact absurd rfl h | _ => rfl
  | ac => cases g with | ac => exact absurd rfl h | _ => rfl
  | p => cases g with | p => exact absurd rfl h | _ => rfl
  | ov => cases g with | ov => exact absurd rfl h | _ => rfl

/-- A flag-port write changes PSW alone. -/
theorem State.writeFlag_eq_withPsw (s : State) (f : Flag) (x : Bool) : ∃ q, s.writeFlag f x = { s with psw := q } := by
  cases f <;> exact ⟨_, rfl⟩

/-- `jc` branches on CY (R223). -/
theorem exec_jc (l : Half) (s : State) : exec (.jc l) s = .next (s.branched s.psw.cy l) :=
  (runCommand_congr (Cmd.run_bind_ok (run_getPsw s))).trans (runCommand_branch s.psw.cy l s)

theorem State.branched_false (s : State) (l : Half) : s.branched false l = s.completed := rfl

theorem State.branched_true {s : State} {l t : Half} (h : s.labels.address? l = some t) :
    s.branched true l = s.transferred t := by
  simp [State.branched, h]

/-- Settles O52: a flag-port write reads back and writes PSW alone, `jc` branches on the CY written, and the memories
read back what was stored at one address. -/
theorem hostWriteChangesOneFlagByteOrBit : Obligations.HostWriteChangesOneFlagByteOrBit := by
  intro s
  refine ⟨fun f x => ?flag, fun l t h => ?next, fun a v => ?byte, fun b x => ?bit⟩
  case flag =>
    exact ⟨rfl, s.readFlag_writeFlag_self f x, fun g hg => s.readFlag_writeFlag_of_ne x hg,
      s.writeFlag_eq_withPsw f x⟩
  case next =>
    constructor
    · exact (exec_jc l _).trans (congrArg _ (State.branched_true h))
    · exact (exec_jc l _).trans (congrArg _ (State.branched_false _ l))
  case byte =>
    exact ⟨Memory.read_write_self _ _ _, fun b hb => Memory.read_write_of_ne _ v hb, _, rfl⟩
  case bit =>
    exact ⟨BitMemory.read_write_self _ _ _, fun c hc => BitMemory.read_write_of_ne _ x hc, _, rfl⟩

end Sys2Proof.Machine
end

section
/-! Data and bit memory (20_memory.md): reads and writes at the ports, the canonical form is one per contents, what
operands resolve to, and what no command can change. -/

namespace Sys2Proof.Machine

variable {α : Type}

/-! ### Requests at the ports (R58) -/

theorem memRead_eq_ok {s t : State} {a x : Byte} (h : (memRead a).run s = .ok x t) :
    s.memServes a = true ∧ x = s.mem.read a ∧ t = s := by
  cases hs : s.memServes a with
  | true => rw [memRead_ok hs] at h; cases h; exact ⟨rfl, rfl, rfl⟩
  | false => rw [memRead_fail hs] at h; cases h

theorem memRead_eq_error {s t : State} {a : Byte} {e : Failure} (h : (memRead a).run s = .error e t) :
    s.memServes a = false ∧ e = ⟨.memReadFail, zext16 a⟩ ∧ t = s := by
  cases hs : s.memServes a with
  | true => rw [memRead_ok hs] at h; cases h
  | false => rw [memRead_fail hs] at h; cases h; exact ⟨rfl, rfl, rfl⟩

theorem memWrite_eq_ok {s t : State} {a v : Byte} (h : (memWrite a v).run s = .ok () t) :
    s.memAccepts a = true ∧ t = s.wrote a v := by
  cases hs : s.memAccepts a with
  | true => rw [memWrite_ok v hs] at h; cases h; exact ⟨rfl, rfl⟩
  | false => rw [memWrite_fail v hs] at h; cases h

theorem bitRead_eq_ok {s t : State} {b : Byte} {x : Bool} (h : (bitRead b).run s = .ok x t) :
    s.bitServes b = true ∧ x = s.bits.read b ∧ t = s := by
  cases hs : s.bitServes b with
  | true => rw [bitRead_ok hs] at h; cases h; exact ⟨rfl, rfl, rfl⟩
  | false => rw [bitRead_fail hs] at h; cases h

theorem bitRead_eq_error {s t : State} {b : Byte} {e : Failure} (h : (bitRead b).run s = .error e t) :
    s.bitServes b = false ∧ e = ⟨.bitReadFail, zext16 b⟩ ∧ t = s := by
  cases hs : s.bitServes b with
  | true => rw [bitRead_ok hs] at h; cases h
  | false => rw [bitRead_fail hs] at h; cases h; exact ⟨rfl, rfl, rfl⟩

theorem bitWrite_eq_ok {s t : State} {b : Byte} {x : Bool} (h : (bitWrite b x).run s = .ok () t) :
    s.bitAccepts b = true ∧ t = s.wroteBit b x := by
  cases hs : s.bitAccepts b with
  | true => rw [bitWrite_ok x hs] at h; cases h; exact ⟨rfl, rfl⟩
  | false => rw [bitWrite_fail x hs] at h; cases h

@[simp] theorem State.bitServes_wroteBit (s : State) (b : Byte) (x : Bool) (c : Byte) :
    (s.wroteBit b x).bitServes c = s.bitServes c := rfl

theorem State.memServes_of_memAccepts {s : State} {a : Byte} (h : s.memAccepts a = true) : s.memServes a = true := by
  simp only [State.memAccepts, Bool.and_eq_true] at h
  obtain ⟨⟨hserved, -⟩, -⟩ := h
  exact hserved

theorem State.bitServes_of_bitAccepts {s : State} {b : Byte} (h : s.bitAccepts b = true) : s.bitServes b = true := by
  simp only [State.bitAccepts, Bool.and_eq_true] at h
  obtain ⟨⟨hserved, -⟩, -⟩ := h
  exact hserved

/-- A read of the address just written returns the byte written. -/
theorem memRead_wrote_self {s : State} {a : Byte} (v : Byte) (h : s.memServes a = true) :
    (memRead a).run (s.wrote a v) = .ok v (s.wrote a v) := by
  rw [memRead_ok (by simpa using h), State.wrote_mem, Memory.read_write_self]

theorem memRead_wrote_of_ne_ok {s t : State} {a b x : Byte} (v : Byte) (hb : b ≠ a)
    (h : (memRead b).run s = .ok x t) : (memRead b).run (s.wrote a v) = .ok x (s.wrote a v) := by
  obtain ⟨hs, rfl, -⟩ := memRead_eq_ok h
  rw [memRead_ok (by simpa using hs), State.wrote_mem, Memory.read_write_of_ne _ _ hb]

/-- A write does not change which addresses are served. -/
theorem memRead_wrote_error {s t : State} {b : Byte} {e : Failure} (a v : Byte)
    (h : (memRead b).run s = .error e t) : (memRead b).run (s.wrote a v) = .error e (s.wrote a v) := by
  obtain ⟨hs, rfl, -⟩ := memRead_eq_error h
  exact memRead_fail (by simpa using hs)

/-- A read of the bit address just written returns the bit written. -/
theorem bitRead_wroteBit_self {s : State} {b : Byte} (x : Bool) (h : s.bitServes b = true) :
    (bitRead b).run (s.wroteBit b x) = .ok x (s.wroteBit b x) := by
  rw [bitRead_ok (by simpa using h), State.wroteBit_bits, BitMemory.read_write_self]

theorem bitRead_wroteBit_of_ne_ok {s t : State} {b c : Byte} {y : Bool} (x : Bool) (hc : c ≠ b)
    (h : (bitRead c).run s = .ok y t) : (bitRead c).run (s.wroteBit b x) = .ok y (s.wroteBit b x) := by
  obtain ⟨hs, rfl, -⟩ := bitRead_eq_ok h
  rw [bitRead_ok (by simpa using hs), State.wroteBit_bits, BitMemory.read_write_of_ne _ _ hc]

/-- A write does not change which bit addresses are served. -/
theorem bitRead_wroteBit_error {s t : State} {c : Byte} {e : Failure} (b : Byte) (x : Bool)
    (h : (bitRead c).run s = .error e t) : (bitRead c).run (s.wroteBit b x) = .error e (s.wroteBit b x) := by
  obtain ⟨hs, rfl, -⟩ := bitRead_eq_error h
  exact bitRead_fail (by simpa using hs)

/-- Settles O14: a completed read leaves its state, a completed write leaves the state with one entry stored, and
both leave every address as served as it was. -/
theorem readAfterWrite : Obligations.ReadAfterWrite := by
  refine ⟨fun s t a x h => ?byteRead, fun s t a v h => ?byteWrite, fun s t b x h => ?bitRead,
    fun s t b x h => ?bitWrite⟩
  case byteRead =>
    obtain ⟨-, -, rfl⟩ := memRead_eq_ok h
    exact ⟨rfl, h⟩
  case byteWrite =>
    obtain ⟨ha, rfl⟩ := memWrite_eq_ok h
    exact ⟨memRead_wrote_self v (State.memServes_of_memAccepts ha), fun _ _ hb hr => memRead_wrote_of_ne_ok v hb hr,
      fun _ _ _ hr => memRead_wrote_error a v hr⟩
  case bitRead =>
    obtain ⟨-, -, rfl⟩ := bitRead_eq_ok h
    exact ⟨rfl, h⟩
  case bitWrite =>
    obtain ⟨ha, rfl⟩ := bitWrite_eq_ok h
    exact ⟨bitRead_wroteBit_self x (State.bitServes_of_bitAccepts ha),
      fun _ _ hc hr => bitRead_wroteBit_of_ne_ok x hc hr, fun _ _ _ hr => bitRead_wroteBit_error b x hr⟩

/-! ### The canonical form is one per contents (R50, R51) -/

/-- A value found in a table is one of its entries. -/
theorem Store.mem_of_find? {m : List (Nat × α)} {k : Nat} {v : α} (h : Store.find? m k = some v) : (k, v) ∈ m := by
  induction m with
  | nil => cases h
  | cons e m ih =>
    rw [Store.find?] at h
    split at h
    · next hk => cases h; subst hk; exact List.mem_cons_self
    · exact List.mem_cons_of_mem e (ih h)

/-- Every key is below `bound`, and no entry holds `d`, the value an unlisted key reads as. -/
def Store.Listed (bound : Nat) (d : α) (m : List (Nat × α)) : Prop := ∀ e ∈ m, e.1 < bound ∧ e.2 ≠ d

theorem Store.Listed.find?_ne {bound : Nat} {d : α} {m : List (Nat × α)} (hm : Store.Listed bound d m) (k : Nat) :
    Store.find? m k ≠ some d :=
  fun h => (hm _ (Store.mem_of_find? h)).2 rfl

theorem Store.Listed.find?_eq_none {bound : Nat} {d : α} {m : List (Nat × α)} (hm : Store.Listed bound d m) {k : Nat}
    (hk : bound ≤ k) : Store.find? m k = none := by
  cases h : Store.find? m k with
  | none => rfl
  | some v => exact absurd (hm _ (Store.mem_of_find? h)).1 (Nat.not_lt.mpr hk)

/-- The value read at a key determines what is listed there, since nothing listed equals an unlisted value. -/
theorem eq_of_getD_eq {d : α} {o p : Option α} (ho : o ≠ some d) (hp : p ≠ some d) (h : o.getD d = p.getD d) :
    o = p := by
  cases o with
  | none =>
    cases p with
    | none => rfl
    | some y => exact absurd (congrArg some h.symm) hp
  | some x =>
    cases p with
    | none => exact absurd (congrArg some h) ho
    | some y => exact congrArg some h

/-- Rising tables that read alike below their bound are equal, if they list no unlisted value. -/
theorem Store.ext_of_getD {bound : Nat} {d : α} {m n : List (Nat × α)} (hm : Store.risingFrom 0 m = true)
    (hn : Store.risingFrom 0 n = true) (hml : Store.Listed bound d m) (hnl : Store.Listed bound d n)
    (h : ∀ k, k < bound → (Store.find? m k).getD d = (Store.find? n k).getD d) : m = n := by
  refine Store.ext m n hm hn fun k => ?_
  by_cases hk : k < bound
  · exact eq_of_getD_eq (hml.find?_ne k) (hnl.find?_ne k) (h k hk)
  · rw [hml.find?_eq_none (Nat.not_lt.mp hk), hnl.find?_eq_none (Nat.not_lt.mp hk)]

theorem Memory.wf_iff (m : Memory) :
    m.wf = true ↔ Store.risingFrom 0 m = true ∧ Store.Listed 256 Memory.unlisted m := by
  simp only [Memory.wf, Store.wf, Store.Listed, Bool.and_eq_true, List.all_eq_true, decide_eq_true_eq, bne_iff_ne,
    and_assoc, ← forall_and]

theorem BitMemory.wf_iff (m : BitMemory) :
    m.wf = true ↔ Store.risingFrom 0 m = true ∧ Store.Listed 256 BitMemory.unlisted m := by
  simp only [BitMemory.wf, Store.wf, Store.Listed, Bool.and_eq_true, List.all_eq_true, decide_eq_true_eq, bne_iff_ne,
    and_assoc, ← forall_and]

theorem Memory.ext_read {m n : Memory} (hm : m.wf = true) (hn : n.wf = true) (h : ∀ a, m.read a = n.read a) :
    m = n := by
  obtain ⟨hmr, hml⟩ := (Memory.wf_iff m).mp hm
  obtain ⟨hnr, hnl⟩ := (Memory.wf_iff n).mp hn
  exact Store.ext_of_getD hmr hnr hml hnl fun k hk => h (BitVec.ofFin ⟨k, hk⟩)

theorem BitMemory.ext_read {m n : BitMemory} (hm : m.wf = true) (hn : n.wf = true) (h : ∀ b, m.read b = n.read b) :
    m = n := by
  obtain ⟨hmr, hml⟩ := (BitMemory.wf_iff m).mp hm
  obtain ⟨hnr, hnl⟩ := (BitMemory.wf_iff n).mp hn
  exact Store.ext_of_getD hmr hnr hml hnl fun k hk => h (BitVec.ofFin ⟨k, hk⟩)

/-- Settles O15: what is listed at an address is determined by what the address reads as, and rising tables that list
the same are equal. -/
theorem memoriesThatReadAlikeAreEqual : Obligations.MemoriesThatReadAlikeAreEqual :=
  ⟨fun _ _ => Memory.ext_read, fun _ _ => BitMemory.ext_read⟩

/-! ### Operands (R59, R60) -/

/-- An indirect source reads its pointer byte, then the byte that one points to. -/
theorem resolveSrc_indirect {s : State} {p : Byte} (h : s.memServes p = true) :
    (resolveSrc (.indirect p)).run s = (memRead (s.mem.read p)).run s :=
  Cmd.run_bind_ok (f := fun a => memRead a) (memRead_ok h)

theorem resolveSrc_indirect_fail {s : State} {p : Byte} (h : s.memServes p = false) :
    (resolveSrc (.indirect p)).run s = .error ⟨.memReadFail, zext16 p⟩ s :=
  Cmd.run_bind_error (f := fun a => memRead a) (memRead_fail h)

/-- Settles O16: every operand form is a constant or one or two byte reads. -/
theorem operandResolution : Obligations.OperandResolution :=
  ⟨fun _ _ => rfl, fun _ _ => memRead_ok, fun _ _ => memRead_fail, fun _ => ⟨rfl, rfl, rfl, rfl⟩,
    fun _ _ => rfl, fun _ _ => memRead_ok, fun _ _ => memRead_fail,
    fun _ _ hp ha => (resolveSrc_indirect hp).trans (memRead_ok ha),
    fun _ _ hp ha => (resolveSrc_indirect hp).trans (memRead_fail ha), fun _ _ => resolveSrc_indirect_fail⟩

/-! ### The changes a command can make

A command stores bytes and writes flags, or it stores a bit: `setb`, `clr` and `cpl` are the ones that store a bit
(R200). What a relation between states must hold of, for every command on bytes or on bits to keep it, is said once. -/

/-- The commands that store a bit (R200). -/
def storesBit (m : Mnemonic) : Bool := decide (m = .setb ∨ m = .clr ∨ m = .cpl)

theorem storesBit_eq_true (m : Mnemonic) : storesBit m = true ↔ m = .setb ∨ m = .clr ∨ m = .cpl :=
  decide_eq_true_iff

theorem storesBit_eq_false (m : Mnemonic) : storesBit m = false ↔ ¬(m = .setb ∨ m = .clr ∨ m = .cpl) :=
  decide_eq_false_iff_not

/-- A composing relation that holds of every change a command on bytes makes: a write request answered, a byte stored,
flags written, a target noted. -/
structure ByteChanges (R : State → State → Prop) : Prop extends Composes R where
  answered : ∀ s, R s s.answered
  wrote : ∀ (s : State) a v, R s (s.wrote a v)
  withPsw : ∀ (s : State) (p : Psw), R s { s with psw := p }
  noted : ∀ (s : State) t, R s (s.noted t)

/-- A composing relation that holds of every change a command on bits makes: a write request answered, a bit stored. -/
structure BitChanges (R : State → State → Prop) : Prop extends Composes R where
  answered : ∀ s, R s s.answered
  wroteBit : ∀ (s : State) b x, R s (s.wroteBit b x)

variable {R : State → State → Prop}

/-! ### Commands on bytes -/

theorem ByteChanges.store (hR : ByteChanges R) (a v : Byte) : Cmd.Within R (memWrite a v) :=
  within_memWrite hR.answered hR.wrote a v

theorem ByteChanges.storeLast (hR : ByteChanges R) (a v : Byte) : Cmd.Within R (memWrite a v >>= fun _ => finish) :=
  hR.bind (hR.store a v) fun _ => hR.finish

theorem ByteChanges.branchLast (hR : ByteChanges R) (c : Bool) (l : Half) : Cmd.Within R (branch c l) :=
  hR.branch hR.noted c l

/-- A command that resolves and reads one operand. -/
theorem Composes.operand (hR : Composes R) (d : Dst) {f : Byte → Byte → Cmd α}
    (hf : ∀ ea x, Cmd.Within R (f ea x)) :
    Cmd.Within R (Machine.resolveDst d >>= fun ea => Machine.memRead ea >>= fun x => f ea x) :=
  hR.bind (hR.resolveDst d) fun ea => hR.bind (hR.memRead ea) fun x => hf ea x

/-- A command that resolves two operands and reads the first. -/
theorem Composes.operands (hR : Composes R) (d : Dst) (v : Src) {f : Byte → Byte → Byte → Cmd α}
    (hf : ∀ ea y x, Cmd.Within R (f ea y x)) :
    Cmd.Within R (Machine.resolveDst d >>= fun ea => Machine.resolveSrc v >>= fun y =>
      Machine.memRead ea >>= fun x => f ea y x) :=
  hR.bind (hR.resolveDst d) fun ea => hR.bind (hR.resolveSrc v) fun y => hR.bind (hR.memRead ea) fun x => hf ea y x

theorem ByteChanges.mov (hR : ByteChanges R) (d : Dst) (v : Src) : Cmd.Within R (movCommand d v) :=
  hR.bind (hR.resolveDst d) fun _ => hR.bind (hR.resolveSrc v) fun _ => hR.storeLast _ _

theorem ByteChanges.add (hR : ByteChanges R) (d : Dst) (v : Src) : Cmd.Within R (addCommand d v) :=
  hR.operands d v fun _ _ _ => hR.bind (within_compute hR.withPsw _ _ _ _) fun _ => hR.storeLast _ _

theorem ByteChanges.subb (hR : ByteChanges R) (d : Dst) (v : Src) : Cmd.Within R (subbCommand d v) :=
  hR.operands d v fun _ y _ => hR.bind (hR.takeCarryIn hR.withPsw y) fun _ =>
    hR.bind (within_compute hR.withPsw _ _ _ _) fun _ => hR.storeLast _ _

theorem ByteChanges.anl (hR : ByteChanges R) (d : Dst) (v : Src) : Cmd.Within R (anlCommand d v) :=
  hR.operands d v fun _ _ _ => hR.bind (within_logicFlags hR.withPsw _) fun _ => hR.storeLast _ _

theorem ByteChanges.orl (hR : ByteChanges R) (d : Dst) (v : Src) : Cmd.Within R (orlCommand d v) :=
  hR.operands d v fun _ _ _ => hR.bind (within_logicFlags hR.withPsw _) fun _ => hR.storeLast _ _

theorem ByteChanges.inc (hR : ByteChanges R) (d : Dst) : Cmd.Within R (incCommand d) :=
  hR.operand d fun _ _ => hR.storeLast _ _

theorem ByteChanges.dec (hR : ByteChanges R) (d : Dst) : Cmd.Within R (decCommand d) :=
  hR.operand d fun _ _ => hR.bind (hR.compute_none _ _ _) fun _ => hR.storeLast _ _

theorem ByteChanges.rl (hR : ByteChanges R) (d : Dst) : Cmd.Within R (rlCommand d) :=
  hR.operand d fun _ _ => hR.bind hR.getConfig fun _ => hR.storeLast _ _

theorem ByteChanges.rr (hR : ByteChanges R) (d : Dst) : Cmd.Within R (rrCommand d) :=
  hR.operand d fun _ _ => hR.bind hR.getConfig fun _ => hR.storeLast _ _

theorem ByteChanges.da (hR : ByteChanges R) (d : Dst) : Cmd.Within R (daCommand d) :=
  hR.operand d fun _ x => hR.bind (hR.daRangeCheck x) fun _ => hR.storeLast _ _

theorem ByteChanges.org (hR : ByteChanges R) (a : Half) : Cmd.Within R (orgCommand a) :=
  hR.bind (hR.pcSet hR.answered hR.noted a) fun _ => hR.finishJumped

theorem ByteChanges.mul (hR : ByteChanges R) : Cmd.Within R mulCommand :=
  hR.bind hR.getConfig fun _ => hR.bind (hR.memRead _) fun _ => hR.bind (hR.memRead _) fun _ =>
    hR.bind (within_writeCy hR.withPsw _) fun _ => hR.bind (within_writeOv hR.withPsw _) fun _ =>
    hR.bind (hR.store _ _) fun _ => hR.storeLast _ _

/-- `jz` and `jnz`: a branch on the accumulator. -/
theorem ByteChanges.branchOnAcc (hR : ByteChanges R) (cond : Byte → Bool) (l : Half) :
    Cmd.Within R (getConfig >>= fun cfg => memRead cfg.addrAcc >>= fun a => branch (cond a) l) :=
  hR.bind hR.getConfig fun _ => hR.bind (hR.memRead _) fun _ => hR.branchLast _ l

/-- `jc` and `jnc`: a branch on PSW. -/
theorem ByteChanges.branchOnPsw (hR : ByteChanges R) (cond : Psw → Bool) (l : Half) :
    Cmd.Within R (getPsw >>= fun psw => branch (cond psw) l) :=
  hR.bind hR.getPsw fun _ => hR.branchLast _ l

theorem ByteChanges.decrement (hR : ByteChanges R) (ea : Byte) (l : Half) :
    Cmd.Within R (decrementAndBranch ea l) :=
  hR.bind (hR.memRead ea) fun _ => hR.bind (hR.compute_none _ _ _) fun _ => hR.bind (hR.store _ _) fun _ =>
    hR.branchLast _ l

theorem ByteChanges.djnz (hR : ByteChanges R) (d : Dst) (l : Half) : Cmd.Within R (djnzCommand d l) :=
  hR.bind (hR.resolveDst d) fun ea => hR.decrement ea l

theorem ByteChanges.djnzAcc (hR : ByteChanges R) (l : Half) : Cmd.Within R (djnzAccCommand l) :=
  hR.bind hR.getConfig fun _ => hR.decrement _ l

theorem ByteChanges.cjne (hR : ByteChanges R) (d : Dst) (v : Src) (l : Half) : Cmd.Within R (cjneCommand d v l) := by
  refine hR.operands d v fun _ y x => ?_
  split
  · exact hR.bind (within_writeCy hR.withPsw _) fun _ => hR.branchLast _ l
  · exact hR.bind (within_writeCy hR.withPsw _) fun _ => hR.branchLast _ l

/-! ### Commands on bits -/

/-- `setb`, `clr` and the end of `cpl`. -/
theorem BitChanges.storeLast (hR : BitChanges R) (b : Byte) (x : Bool) :
    Cmd.Within R (bitWrite b x >>= fun _ => finish) :=
  hR.bind (within_bitWrite hR.answered hR.wroteBit b x) fun _ => hR.finish

theorem BitChanges.cpl (hR : BitChanges R) (b : Byte) : Cmd.Within R (cplCommand b) :=
  hR.bind (hR.bitRead b) fun _ => hR.storeLast _ _

/-! ### Every command -/

/-- A relation that holds of a bit command's changes, where the instruction is one, and of a byte command's, where it is
not, is kept by the instruction's statements. -/
theorem within_commandOf : (i : Instr) → (storesBit i.mnemonic = true → BitChanges R) →
    (storesBit i.mnemonic = false → ByteChanges R) → Cmd.Within R (commandOf i)
  | .movDirDir _ _, _, h | .movDirInd _ _, _, h | .movDirImm _ _, _, h
  | .movIndDir _ _, _, h | .movIndInd _ _, _, h | .movIndImm _ _, _, h => (h rfl).mov _ _
  | .addDirDir _ _, _, h | .addDirInd _ _, _, h | .addDirImm _ _, _, h
  | .addIndDir _ _, _, h | .addIndInd _ _, _, h | .addIndImm _ _, _, h => (h rfl).add _ _
  | .subbDirDir _ _, _, h | .subbDirInd _ _, _, h | .subbDirImm _ _, _, h
  | .subbIndDir _ _, _, h | .subbIndInd _ _, _, h | .subbIndImm _ _, _, h => (h rfl).subb _ _
  | .anlDirDir _ _, _, h | .anlDirInd _ _, _, h | .anlDirImm _ _, _, h
  | .anlIndDir _ _, _, h | .anlIndInd _ _, _, h | .anlIndImm _ _, _, h => (h rfl).anl _ _
  | .orlDirDir _ _, _, h | .orlDirInd _ _, _, h | .orlDirImm _ _, _, h
  | .orlIndDir _ _, _, h | .orlIndInd _ _, _, h | .orlIndImm _ _, _, h => (h rfl).orl _ _
  | .incDir _, _, h | .incInd _, _, h => (h rfl).inc _
  | .decDir _, _, h | .decInd _, _, h => (h rfl).dec _
  | .rlDir _, _, h | .rlInd _, _, h => (h rfl).rl _
  | .rrDir _, _, h | .rrInd _, _, h => (h rfl).rr _
  | .daDir _, _, h | .daInd _, _, h => (h rfl).da _
  | .org _, _, h => (h rfl).org _
  | .mul, _, h => (h rfl).mul
  | .setb _, h, _ | .clr _, h, _ => (h rfl).storeLast _ _
  | .cpl _, h, _ => (h rfl).cpl _
  | .jz l, _, h => (h rfl).branchOnAcc (· == 0) l
  | .jnz l, _, h => (h rfl).branchOnAcc (· != 0) l
  | .jc l, _, h => (h rfl).branchOnPsw (·.cy) l
  | .jnc l, _, h => (h rfl).branchOnPsw (!·.cy) l
  | .djnzDir _ _, _, h | .djnzInd _ _, _, h => (h rfl).djnz _ _
  | .djnzAcc _, _, h => (h rfl).djnzAcc _
  | .cjneDirDir _ _ _, _, h | .cjneDirInd _ _ _, _, h | .cjneDirImm _ _ _, _, h
  | .cjneIndDir _ _ _, _, h | .cjneIndInd _ _ _, _, h | .cjneIndImm _ _ _, _, h => (h rfl).cjne _ _ _
  | .jb, _, h | .jnb, _, h => (h rfl).raise _ _

/-! ### Bytes, bits and flags are separate (R20, R51, R200) -/

/-- The two states hold the same bytes and flags. -/
def State.sameBytesAndFlags (s t : State) : Prop := t.mem = s.mem ∧ t.psw = s.psw

/-- The two states hold the same bits. -/
def State.sameBits (s t : State) : Prop := t.bits = s.bits

theorem bitChanges_sameBytesAndFlags : BitChanges State.sameBytesAndFlags where
  refl _ := ⟨rfl, rfl⟩
  trans := fun _ _ _ ⟨hm, hp⟩ ⟨hm', hp'⟩ => ⟨hm'.trans hm, hp'.trans hp⟩
  answered _ := ⟨rfl, rfl⟩
  wroteBit _ _ _ := ⟨rfl, rfl⟩

theorem byteChanges_sameBits : ByteChanges State.sameBits where
  refl _ := rfl
  trans _ _ _ h h' := Eq.trans h' h
  answered _ := rfl
  wrote _ _ _ := rfl
  withPsw _ _ := rfl
  noted _ _ := rfl

theorem exec_sameBytesAndFlags {i : Instr} {s t : State} (hi : storesBit i.mnemonic = true)
    (h : exec i s = .next t) : s.sameBytesAndFlags t :=
  exec_within (within_commandOf i (fun _ => bitChanges_sameBytesAndFlags) fun hn => nomatch hi.symm.trans hn)
    (fun _ _ _ _ _ hst => hst) h

theorem exec_sameBits {i : Instr} {s t : State} (hi : storesBit i.mnemonic = false)
    (h : exec i s = .next t) : s.sameBits t :=
  exec_within (within_commandOf i (fun hb => nomatch hi.symm.trans hb) fun _ => byteChanges_sameBits)
    (fun _ _ _ _ _ hst => hst) h

/-- Settles O50: a stored bit leaves the bytes and the flags, and no other command stores a bit. -/
theorem bytesBitsAndFlagsAreSeparate : Obligations.BytesBitsAndFlagsAreSeparate := by
  refine fun i s t h => ⟨fun hi => ?bitCommand, fun hsetb hclr hcpl => ?otherCommand⟩
  case bitCommand => exact exec_sameBytesAndFlags ((storesBit_eq_true _).mpr hi) h
  case otherCommand =>
    refine exec_sameBits ((storesBit_eq_false _).mpr ?_) h
    rintro (hi | hi | hi)
    · exact hsetb hi
    · exact hclr hi
    · exact hcpl hi

/-! ### The program and the tables (R26, R67, R304) -/

theorem byteChanges_sameElsewhere : ByteChanges State.sameElsewhere where
  toComposes := sameElsewhere_composes
  answered s := ⟨rfl, rfl, rfl, rfl, rfl, rfl, s.onlyUsesAnswers_answered⟩
  wrote s _ _ := ⟨rfl, rfl, rfl, rfl, rfl, rfl, s.onlyUsesAnswers_answered⟩
  withPsw s _ := ⟨rfl, rfl, rfl, rfl, rfl, rfl, s.onlyUsesAnswers_refl⟩
  noted s _ := ⟨rfl, rfl, rfl, rfl, rfl, rfl, s.onlyUsesAnswers_refl⟩

theorem bitChanges_sameElsewhere : BitChanges State.sameElsewhere where
  toComposes := sameElsewhere_composes
  answered := byteChanges_sameElsewhere.answered
  wroteBit s _ _ := ⟨rfl, rfl, rfl, rfl, rfl, rfl, s.onlyUsesAnswers_answered⟩

theorem State.sameElsewhere_report (s : State) (st : Status) (n : Half) (x : Xfer) :
    s.sameElsewhere (s.report st n x) :=
  ⟨rfl, rfl, rfl, rfl, rfl, rfl, s.onlyUsesAnswers_refl⟩

theorem exec_sameElsewhere {i : Instr} {s t : State} (h : exec i s = .next t) : s.sameElsewhere t :=
  exec_within (within_commandOf i (fun _ => bitChanges_sameElsewhere) fun _ => byteChanges_sameElsewhere)
    (fun s t st n x hst => sameElsewhere_composes.trans s t _ hst (t.sameElsewhere_report st n x)) h

/-- What a presented word can do: run the command it decodes to, or change nothing but the status port (R88). -/
theorem present_eq_next {w : CW} {s t : State} (h : present w s = .next t) :
    (∃ i, decode w = .ok i ∧ exec i s = .next t) ∨
    (∃ e, decode w = .error e ∧ t = s.raised (failureOf e).status (failureOf e).info) := by
  unfold present at h
  split at h
  · next i hi => exact .inl ⟨i, hi, h⟩
  · next e he => cases h; exact .inr ⟨e, he, rfl⟩

theorem present_sameElsewhere {w : CW} {s t : State} (h : present w s = .next t) : s.sameElsewhere t := by
  rcases present_eq_next h with ⟨i, -, hi⟩ | ⟨e, -, rfl⟩
  · exact exec_sameElsewhere hi
  · exact s.sameElsewhere_report _ _ _

/-- What a step with a next state did: it presented the word at PC with the target cleared, and advanced (R281). -/
theorem step_eq_next {s t : State} (h : step s = .next t) :
    s.stopped = false ∧ ∃ w u, s.fetch = some w ∧ present w s.clearTarget = .next u ∧ t = u.advance := by
  unfold step dispatcherStep at h
  split at h
  · cases h
  · next hs =>
    split at h
    · cases h
    · next w hw =>
      split at h
      · next u hu => cases h; exact ⟨by simpa using hs, w, u, hw, hu, rfl⟩
      · cases h
      · cases h

/-- Settles O51: no statement of a command touches those fields, and around the command a step clears the target and
advances PC. -/
theorem noCommandChangesProgramOrTables : Obligations.NoCommandChangesProgramOrTables := by
  refine ⟨fun _ _ _ => exec_sameElsewhere, fun s t h => ?step⟩
  case step =>
    obtain ⟨-, w, u, -, hu, rfl⟩ := step_eq_next h
    obtain ⟨hcfg, -, hentry, hprog, hlabels, -, -⟩ := present_sameElsewhere hu
    exact ⟨u.advance_cfg.trans hcfg, u.advance_entry.trans hentry, u.advance_prog.trans hprog,
      u.advance_labels.trans hlabels⟩

end Sys2Proof.Machine
end

section
/-! The command word (30_encoding.md R81 to R90): the decoder accepts exactly the words the tables of R83, R84 and R86
call legal, gives back every encoded instruction, and reads no field a format ignores; the six bytes of a word. -/

namespace Sys2Proof

/-! ### The opcode map and the formats (R83, R84) -/

/-- The format column of R84, by mnemonic: it joins the decoder's opcode map to the tables of WellFormed.lean. -/
def Mnemonic.format : Mnemonic → Format
  | .mov | .add | .subb | .anl | .orl => .a2
  | .inc | .dec | .rl | .rr | .da => .a1
  | .mul => .a0
  | .org => .org
  | .setb | .clr | .cpl => .bit
  | .jz | .jnz | .jc | .jnc => .br
  | .djnz => .dj
  | .cjne => .cj
  | .jb | .jnb => .bb

theorem formatOf?_eq (op : Byte) : formatOf? op = (Mnemonic.ofOpcode? op).map Mnemonic.format := by
  revert op; decide

/-- The values R85 lists are the unassigned ones. -/
theorem formatOf?_isSome_eq_false_iff (op : Byte) :
    (formatOf? op).isSome = false ↔
      op = 0x00 ∨ (0x0D ≤ op ∧ op ≤ 0x0F) ∨ (0x13 ≤ op ∧ op ≤ 0x1F) ∨ 0x28 ≤ op := by
  revert op; decide

/-- Format BB is `jb` and `jnb`. -/
theorem op_of_formatOf?_eq_bb {op : Byte} (h : formatOf? op = some .bb) : op = 0x26 ∨ op = 0x27 := by
  revert op; decide

/-- An assigned opcode selects a mnemonic, whose format is the opcode's. -/
theorem exists_mnemonic_of_formatOf? {op : Byte} {f : Format} (h : formatOf? op = some f) :
    ∃ m, Mnemonic.ofOpcode? op = some m ∧ m.format = f := by
  rwa [formatOf?_eq, Option.map_eq_some_iff] at h

/-! ### Operands: built exactly for the legal mode pairs (R83) -/

theorem Command.isSome_twoOperands? (c : Command) :
    c.twoOperands?.isSome = Format.a2.legalPairs.contains (c.m1, c.m2) := by
  obtain ⟨-, m1, m2, -, -, -, -⟩ := c
  cases m1 <;> cases m2 <;> rfl

theorem Command.isSome_oneOperand? (c : Command) :
    c.oneOperand?.isSome = Format.a1.legalPairs.contains (c.m1, c.m2) := by
  obtain ⟨-, m1, m2, -, -, -, -⟩ := c
  cases m1 <;> cases m2 <;> rfl

theorem Command.isSome_bitOperand? (c : Command) :
    c.bitOperand?.isSome = Format.bit.legalPairs.contains (c.m1, c.m2) := by
  obtain ⟨-, m1, m2, -, -, -, -⟩ := c
  cases m1 <;> cases m2 <;> rfl

theorem Command.noOperand_eq (c : Command) : c.noOperand = Format.br.legalPairs.contains (c.m1, c.m2) := by
  obtain ⟨-, m1, m2, -, -, -, -⟩ := c
  cases m1 <;> cases m2 <;> rfl

/-- Format DJ takes no operand or one. -/
theorem Command.djnz_pairs (c : Command) :
    (c.noOperand || c.oneOperand?.isSome) = Format.dj.legalPairs.contains (c.m1, c.m2) := by
  obtain ⟨-, m1, m2, -, -, -, -⟩ := c
  cases m1 <;> cases m2 <;> rfl

/-- The decoder builds a command exactly where R83 lists the mode pair. -/
theorem Command.isSome_build? {m : Mnemonic} (hm : m.format ≠ .bb) (c : Command) :
    (c.build? m).isSome = m.format.legalPairs.contains (c.m1, c.m2) := by
  cases m with
  | mov | add | subb | anl | orl | cjne => exact Option.isSome_map.trans c.isSome_twoOperands?
  | inc | dec | rl | rr | da => exact Option.isSome_map.trans c.isSome_oneOperand?
  | setb | clr | cpl => exact Option.isSome_map.trans c.isSome_bitOperand?
  | org | mul | jz | jnz | jc | jnc => exact Eq.trans (by cases h : c.noOperand <;> simp [build?, h]) c.noOperand_eq
  | djnz => exact Eq.trans (by cases h : c.noOperand <;> simp [build?, h]) c.djnz_pairs
  | jb | jnb => exact absurd rfl hm

/-- The decoder reads no field that the mnemonic's format ignores (R83, R87). -/
theorem Command.build?_congr {m : Mnemonic} {c c' : Command} (h : c.agreeOnUsed m.format c') (hm : m.format ≠ .bb) :
    c.build? m = c'.build? m := by
  obtain ⟨op, m1, m2, rsv, f1, f2, x16⟩ := c
  obtain ⟨op', m1', m2', rsv', f1', f2', x16'⟩ := c'
  obtain ⟨-, h⟩ := h
  obtain ⟨rfl, rfl, -, hf1, hf2, hx16⟩ := h hm
  cases m with
  | mov | add | subb | anl | orl =>
    obtain rfl := hf1 rfl
    obtain rfl := hf2 rfl
    rfl
  | inc | dec | rl | rr | da | setb | clr | cpl => obtain rfl := hf1 rfl; rfl
  | org | jz | jnz | jc | jnc => obtain rfl := hx16 rfl; rfl
  | mul => rfl
  | djnz =>
    obtain rfl := hx16 rfl
    cases m1 with
    | none => cases m2 <;> rfl
    | direct | indirect | immediate => obtain rfl := hf1 rfl; rfl
  | cjne =>
    obtain rfl := hf1 rfl
    obtain rfl := hf2 rfl
    obtain rfl := hx16 rfl
    rfl
  | jb | jnb => exact absurd rfl hm

/-! ### Decoding, step by step of R88 -/

/-- Step (1). -/
theorem decode_of_unassigned {w : CW} (h : (Command.ofWord w).opAssigned = false) :
    decode w = .error (.unknownOpcode (Command.ofWord w).op) := by
  have hop : Mnemonic.ofOpcode? (Command.ofWord w).op = none := by
    simpa [Command.opAssigned, formatOf?_eq] using h
  rw [decode, decodeFields, hop]

theorem decode_of_op_jb {w : CW} (h : (Command.ofWord w).op = 0x26) : decode w = .ok .jb := by
  rw [decode, decodeFields, h]; rfl

theorem decode_of_op_jnb {w : CW} (h : (Command.ofWord w).op = 0x27) : decode w = .ok .jnb := by
  rw [decode, decodeFields, h]; rfl

/-- Steps (3) and (4). -/
theorem decode_of_checked {w : CW} {m : Mnemonic} (h : Mnemonic.ofOpcode? (Command.ofWord w).op = some m)
    (hm : m.format ≠ .bb) :
    decode w = if (Command.ofWord w).rsv = 0 then
      ((Command.ofWord w).build? m).elim (.error (.illegalOperand (headOf w))) .ok
      else .error (.illegalOperand (headOf w)) := by
  rw [decode, decodeFields, h]
  cases m with
  | jb | jnb => exact absurd rfl hm
  | _ => dsimp only; cases (Command.ofWord w).build? _ <;> rfl

/-- What an assigned opcode other than those of `jb` and `jnb` gives the legality check: a mnemonic, and its format's
list of mode pairs. -/
theorem Command.exists_checked_mnemonic {c : Command} (ha : c.opAssigned = true) (hb : c.isBB = false) :
    ∃ m, Mnemonic.ofOpcode? c.op = some m ∧ m.format ≠ .bb ∧ c.pairLegal = (c.build? m).isSome := by
  obtain ⟨f, hf⟩ := Option.isSome_iff_exists.mp ha
  obtain ⟨m, hm, rfl⟩ := exists_mnemonic_of_formatOf? hf
  have hbb : m.format ≠ .bb := by simpa [isBB, hf] using hb
  exact ⟨m, hm, hbb, by simp only [pairLegal, hf, isSome_build? hbb]⟩

theorem decode_of_illegal {w : CW} (ha : (Command.ofWord w).opAssigned = true) (hb : (Command.ofWord w).isBB = false)
    (h : (Command.ofWord w).pairLegal = false ∨ (Command.ofWord w).rsvZero = false) :
    decode w = .error (.illegalOperand (headOf w)) := by
  obtain ⟨m, hm, hbb, hpair⟩ := Command.exists_checked_mnemonic ha hb
  rw [decode_of_checked hm hbb]
  rcases h with h | h
  · have hnone : (Command.ofWord w).build? m = none := by simpa [hpair] using h
    simp [hnone]
  · rw [if_neg (by simpa [Command.rsvZero] using h)]

theorem exists_decode_of_legal {w : CW} (ha : (Command.ofWord w).opAssigned = true)
    (hb : (Command.ofWord w).isBB = false) (hp : (Command.ofWord w).pairLegal = true)
    (hr : (Command.ofWord w).rsvZero = true) : ∃ i, decode w = .ok i := by
  obtain ⟨m, hm, hbb, hpair⟩ := Command.exists_checked_mnemonic ha hb
  obtain ⟨i, hi⟩ := Option.isSome_iff_exists.mp (hpair ▸ hp)
  exact ⟨i, by rw [decode_of_checked hm hbb, if_pos (by simpa [Command.rsvZero] using hr), hi]; rfl⟩

/-- The decoder accepts no word that R83, R84 and R86 call illegal. -/
theorem wellFormed_of_decode {w : CW} {i : Instr} (h : decode w = .ok i) : (Command.ofWord w).wellFormed = true := by
  by_contra hwf
  simp only [Command.wellFormed, Bool.or_eq_true, Bool.and_eq_true, not_or, not_and, Bool.not_eq_true] at hwf
  obtain ⟨hbb, hwf⟩ := hwf
  cases ha : (Command.ofWord w).opAssigned with
  | false => simp [decode_of_unassigned ha] at h
  | true =>
    have hill : (Command.ofWord w).pairLegal = false ∨ (Command.ofWord w).rsvZero = false := by
      cases hp : (Command.ofWord w).pairLegal with
      | false => exact .inl rfl
      | true => exact .inr (hwf ⟨ha, hp⟩)
    simp [decode_of_illegal ha hbb hill] at h

/-! ### Round trip (R81, R84) -/

/-- The fields of an encoded word are those its row puts together (`decode_cw`); the row's CW[47:32] then selects the
constructor, one row of the opcode table at a time. -/
theorem decode_encode (i : Instr) : decode (encode i) = .ok i := by
  cases i <;> exact (decode_cw _ _ _ _).trans rfl

/-- Settles O2: the decoder reads an encoded word as its instruction, and it accepts legal words only. -/
theorem decodeEncodeAgree : Obligations.DecodeEncodeAgree :=
  fun i => ⟨wellFormed_of_decode (decode_encode i), decode_encode i⟩

/-- Settles O1: twelve words, each decoded by evaluation. -/
theorem sampleWordsDecode : Obligations.SampleWordsDecode := by
  unfold Obligations.SampleWordsDecode
  decide

/-! ### Ignored fields (R87) -/

@[simp] theorem Mode.bits_ofBits (b : BitVec 2) : (Mode.ofBits b).bits = b := by revert b; decide

/-- CW[47:32] holds no field but OP, M1, M2 and RSV (R81). -/
theorem headOf_eq (w : CW) :
    headOf w = (Command.ofWord w).op ++ (Command.ofWord w).m1.bits ++ (Command.ofWord w).m2.bits ++
      (Command.ofWord w).rsv := by
  simp only [headOf, Command.ofWord, Mode.bits_ofBits]
  rw [BitVec.extractLsb'_append_extractLsb'_eq_extractLsb' (by rfl),
    BitVec.extractLsb'_append_extractLsb'_eq_extractLsb' (by rfl),
    BitVec.extractLsb'_append_extractLsb'_eq_extractLsb' (by rfl)]

/-- Decoding reads only the fields the word's format uses. -/
theorem decode_congr {f : Format} {w w' : CW} (hf : formatOf? (Command.ofWord w).op = some f)
    (h : Command.agreeOnUsed f (Command.ofWord w) (Command.ofWord w')) : decode w = decode w' := by
  have hop : (Command.ofWord w).op = (Command.ofWord w').op := h.1
  by_cases hbb : f = .bb
  · subst hbb
    rcases op_of_formatOf?_eq_bb hf with h26 | h27
    · rw [decode_of_op_jb h26, decode_of_op_jb (hop ▸ h26)]
    · rw [decode_of_op_jnb h27, decode_of_op_jnb (hop ▸ h27)]
  · obtain ⟨m, hm, rfl⟩ := exists_mnemonic_of_formatOf? hf
    obtain ⟨hm1, hm2, hrsv, -⟩ := h.2 hbb
    rw [decode_of_checked hm hbb, decode_of_checked (hop ▸ hm) hbb, Command.build?_congr h hbb, headOf_eq w,
      headOf_eq w', hop, hm1, hm2, hrsv]

/-! ### The six bytes (R56, R81) -/

theorem wordOfBytes?_wordBytes_append (w : CW) (rest : List Byte) :
    wordOfBytes? (wordBytes w ++ rest) = some (w, rest) := by
  have hw : w.extractLsb' 40 8 ++ w.extractLsb' 32 8 ++ w.extractLsb' 24 8 ++ w.extractLsb' 16 8 ++
      w.extractLsb' 8 8 ++ w.extractLsb' 0 8 = w := by
    rw [BitVec.extractLsb'_append_extractLsb'_eq_extractLsb' (by rfl),
      BitVec.extractLsb'_append_extractLsb'_eq_extractLsb' (by rfl),
      BitVec.extractLsb'_append_extractLsb'_eq_extractLsb' (by rfl),
      BitVec.extractLsb'_append_extractLsb'_eq_extractLsb' (by rfl),
      BitVec.extractLsb'_append_extractLsb'_eq_extractLsb' (by rfl), BitVec.extractLsb'_eq_self]
  exact congrArg (fun v => some (v, rest)) hw

theorem wordBytes_append (b0 b1 b2 b3 b4 b5 : Byte) :
    wordBytes (b0 ++ b1 ++ b2 ++ b3 ++ b4 ++ b5) = [b0, b1, b2, b3, b4, b5] := by
  simp only [wordBytes, List.cons.injEq, and_true]
  refine ⟨?_, ?_, ?_, ?_, ?_, ?_⟩
  all_goals
    ext i hi
    simp only [BitVec.getElem_extractLsb', BitVec.getLsbD_append]
    grind

theorem decodeBytes_of_length_lt {bytes : List Byte} (h : bytes.length < 6) :
    decodeBytes bytes = .error .truncated := by
  match bytes, h with
  | [], _ | [_], _ | [_, _], _ | [_, _, _], _ | [_, _, _, _], _ | [_, _, _, _, _], _ => rfl

/-- Settles O5: the bytes of a word are its slices in order, so putting them together is the word again. -/
theorem commandWordBytesAreBigEndian : Obligations.CommandWordBytesAreBigEndian := by
  refine ⟨fun _ => ⟨rfl, fun k hk => ?slices⟩, wordOfBytes?_wordBytes_append,
    fun b0 b1 b2 b3 b4 b5 _ => ⟨_, rfl, wordBytes_append b0 b1 b2 b3 b4 b5⟩,
    fun _ => decodeBytes_of_length_lt, fun i rest => ?roundTrip⟩
  case slices => interval_cases k <;> rfl
  case roundTrip => simp only [decodeBytes, wordOfBytes?_wordBytes_append, decode_encode]

end Sys2Proof

namespace Sys2Proof.Machine

/-! ### The command port (R28, R88) -/

theorem present_of_decode_ok {w : CW} {i : Instr} (h : decode w = .ok i) (s : State) : present w s = exec i s := by
  rw [present, h]

/-- A word that is no command changes nothing but the status port. -/
theorem present_of_decode_error {w : CW} {e : CommandError} (h : decode w = .error e) (s : State) :
    present w s = .next (s.raised (failureOf e).status (failureOf e).info) := by
  rw [present, h]; rfl

/-- `jb` and `jnb` raise NOT_IMPLEMENTED (R88 step 2). -/
theorem present_of_isBB {w : CW} (h : (Command.ofWord w).isBB = true) (s : State) :
    present w s = .next (s.raised .notImplemented (zext16 (Command.ofWord w).op)) := by
  rcases op_of_formatOf?_eq_bb (by simpa [Command.isBB] using h) with h26 | h27
  · rw [present_of_decode_ok (decode_of_op_jb h26), h26]; rfl
  · rw [present_of_decode_ok (decode_of_op_jnb h27), h27]; rfl

/-- Settles O3: the values of R85 by the opcode table, then one clause for each step of R88. -/
theorem commandWordCheckOrder : Obligations.CommandWordCheckOrder := fun _ s =>
  ⟨formatOf?_isSome_eq_false_iff _,
    fun h => present_of_decode_error (decode_of_unassigned h) s,
    fun _ hb => present_of_isBB hb s,
    fun ha hb h => present_of_decode_error (decode_of_illegal ha hb h) s,
    fun ha hb hp hr => (exists_decode_of_legal ha hb hp hr).imp fun _ hi => ⟨hi, present_of_decode_ok hi s⟩⟩

/-- Settles O4: the two words decode alike. -/
theorem unusedFieldsHaveNoEffect : Obligations.UnusedFieldsHaveNoEffect := by
  intro f w w' s hf h
  rw [present, present, decode_congr hf h]

end Sys2Proof.Machine
end

section
/-! The Flag Unit (40_flag_unit.md R120 to R126): what a compute returns and writes to PSW, and the flags each command
may write, failing or not. -/

namespace Sys2Proof.Machine

variable {α : Type}

/-! ### The result of a compute (R125) -/

theorem computeResult_add_ofNat (a b : Byte) :
    computeResult a b .add = BitVec.ofNat 8 ((a.toNat + b.toNat) % 256) := by
  rw [computeResult_add]
  apply BitVec.eq_of_toNat_eq
  rw [BitVec.toNat_add, BitVec.toNat_ofNat, Nat.mod_mod]

theorem computeResult_sub_ofNat (a b : Byte) :
    computeResult a b .sub = BitVec.ofNat 8 ((a.toNat + 256 - b.toNat) % 256) := by
  rw [computeResult_sub]
  apply BitVec.eq_of_toNat_eq
  rw [BitVec.toNat_sub, BitVec.toNat_ofNat]
  have := b.isLt
  omega

/-- Settles O17: the enables and the rule for CY have no part in the result. -/
theorem computeResultWraps : Obligations.ComputeResultWraps := fun a b en s =>
  ⟨⟨_, computeResult_add_ofNat a b ▸ run_compute a b .add en s⟩,
    ⟨_, computeResult_sub_ofNat a b ▸ run_compute a b .sub en s⟩⟩

/-! ### The flags of a compute (R121 to R124) -/

theorem computePsw_cy (rule : SubCyRule) (a b : Byte) (m : ComputeMode) (en : FlagEnables) (psw : Psw) :
    (computePsw rule a b m en psw).cy = if en.cy then computeCarry rule a b m else psw.cy := rfl

theorem computeCarry_add_iff (rule : SubCyRule) (a b : Byte) :
    computeCarry rule a b .add = true ↔ a.toNat + b.toNat > 255 := decide_eq_true_iff

theorem computeCarry_borrow_iff (a b : Byte) : computeCarry .borrow a b .sub = true ↔ a.toNat < b.toNat :=
  decide_eq_true_iff

theorem computeCarry_literalOr_iff (a b : Byte) : computeCarry .literalOr a b .sub = true ↔ b ≠ 0 := by
  rw [computeCarry_literalOr, bne_iff_ne]

theorem nibbleCarry_eq_and (a b : Byte) :
    nibbleCarry a b = decide ((a.toNat &&& 0xF) + (b.toNat &&& 0xF) ≥ 16) := by
  rw [Nat.and_two_pow_sub_one_eq_mod a.toNat 4, Nat.and_two_pow_sub_one_eq_mod b.toNat 4]
  rfl

/-- A count is even exactly when the exclusive or of what it counts is false. -/
theorem countP_even_eq_not_xor (p : α → Bool) (l : List α) :
    (l.countP p % 2 == 0) = !(l.foldr (fun i x => p i ^^ x) false) := by
  induction l with
  | nil => rfl
  | cons i l ih =>
    rw [List.foldr_cons, ← Bool.xor_not, ← ih, List.countP_cons]
    cases p i with
    | false => simp
    | true => rw [Bool.eq_iff_iff]; simp; omega

theorem parityEven_eq_not_xor (v : Byte) :
    parityEven v = !(v.getLsbD 0 ^^ v.getLsbD 1 ^^ v.getLsbD 2 ^^ v.getLsbD 3 ^^
      v.getLsbD 4 ^^ v.getLsbD 5 ^^ v.getLsbD 6 ^^ v.getLsbD 7) := by
  have h : parityEven v = !((List.range 8).foldr (fun i x => v.getLsbD i ^^ x) false) := countP_even_eq_not_xor _ _
  rw [h]
  simp [List.range_succ]

/-- Settles O18: PSW after a compute is `computePsw`, flag by flag. -/
theorem computeWritesEnabledFlags : Obligations.ComputeWritesEnabledFlags := by
  refine fun a b m en s => ⟨_, _, run_compute a b m en s, fun hcy => ?cy, ?ac, ?p, ?ov⟩
  case cy => simp [computePsw_cy, hcy]
  case ac => rw [← nibbleCarry_eq_and]; rfl
  case p => rw [← parityEven_eq_not_xor]; rfl
  case ov => rfl

/-- CY after a compute that enables it (R121). -/
theorem compute_cy_enabled {en : FlagEnables} (hen : en.cy = true) (a b : Byte) (m : ComputeMode) (s : State) :
    ∃ r t, (compute a b m en).run s = .ok r t ∧ t.psw.cy = computeCarry s.cfg.subCyRule a b m :=
  ⟨_, _, run_compute a b m en s, by simp [computePsw_cy, hen]⟩

/-- Settles O19: CY is the carry `computeCarry` derives for the mode and the rule. -/
theorem computeCarryRules : Obligations.ComputeCarryRules := by
  refine fun a b en s =>
    ⟨fun hen => ?add, fun hen hrule => ?borrow, fun hen hrule => ?literalOr, fun hen m => ?disabled⟩
  case add =>
    obtain ⟨r, t, hr, ht⟩ := compute_cy_enabled hen a b .add s
    exact ⟨r, t, hr, ht ▸ computeCarry_add_iff _ a b⟩
  case borrow =>
    obtain ⟨r, t, hr, ht⟩ := compute_cy_enabled hen a b .sub s
    exact ⟨r, t, hr, by rw [ht, hrule]; exact computeCarry_borrow_iff a b⟩
  case literalOr =>
    obtain ⟨r, t, hr, ht⟩ := compute_cy_enabled hen a b .sub s
    exact ⟨r, t, hr, by rw [ht, hrule]; exact computeCarry_literalOr_iff a b⟩
  case disabled => exact ⟨_, _, run_compute a b m en s, by simp [computePsw_cy, hen]⟩

/-! ### What a command changes besides its flag writes

A command that writes no flag changes the state by its port requests alone; one that writes flags does the same around
its flag writes. `ByteChanges` lets a command write any flag, so it cannot tell one flag from another: here a relation
holds of the port requests, and a command's own flag writes are the lemma's hypothesis. -/

/-- A composing relation that holds of every change a port request makes: a request answered, a byte or a bit stored, a
target noted. -/
structure PortChanges (R : State → State → Prop) : Prop extends BitChanges R where
  wrote : ∀ (s : State) a v, R s (s.wrote a v)
  noted : ∀ (s : State) t, R s (s.noted t)

section
variable {R : State → State → Prop}

theorem PortChanges.store (hR : PortChanges R) (a v : Byte) : Cmd.Within R (memWrite a v) :=
  within_memWrite hR.answered hR.wrote a v

theorem PortChanges.storeByteLast (hR : PortChanges R) (a v : Byte) :
    Cmd.Within R (memWrite a v >>= fun _ => finish) :=
  hR.bind (hR.store a v) fun _ => hR.finish

theorem PortChanges.branchLast (hR : PortChanges R) (c : Bool) (l : Half) : Cmd.Within R (branch c l) :=
  hR.branch hR.noted c l

theorem PortChanges.mov (hR : PortChanges R) (d : Dst) (v : Src) : Cmd.Within R (movCommand d v) :=
  hR.bind (hR.resolveDst d) fun _ => hR.bind (hR.resolveSrc v) fun _ => hR.storeByteLast _ _

theorem PortChanges.anl (hR : PortChanges R) (hflags : ∀ r, Cmd.Within R (logicFlags r)) (d : Dst) (v : Src) :
    Cmd.Within R (anlCommand d v) :=
  hR.operands d v fun _ _ _ => hR.bind (hflags _) fun _ => hR.storeByteLast _ _

theorem PortChanges.orl (hR : PortChanges R) (hflags : ∀ r, Cmd.Within R (logicFlags r)) (d : Dst) (v : Src) :
    Cmd.Within R (orlCommand d v) :=
  hR.operands d v fun _ _ _ => hR.bind (hflags _) fun _ => hR.storeByteLast _ _

theorem PortChanges.inc (hR : PortChanges R) (d : Dst) : Cmd.Within R (incCommand d) :=
  hR.operand d fun _ _ => hR.storeByteLast _ _

theorem PortChanges.dec (hR : PortChanges R) (d : Dst) : Cmd.Within R (decCommand d) :=
  hR.operand d fun _ _ => hR.bind (hR.compute_none _ _ _) fun _ => hR.storeByteLast _ _

theorem PortChanges.rl (hR : PortChanges R) (d : Dst) : Cmd.Within R (rlCommand d) :=
  hR.operand d fun _ _ => hR.bind hR.getConfig fun _ => hR.storeByteLast _ _

theorem PortChanges.rr (hR : PortChanges R) (d : Dst) : Cmd.Within R (rrCommand d) :=
  hR.operand d fun _ _ => hR.bind hR.getConfig fun _ => hR.storeByteLast _ _

theorem PortChanges.da (hR : PortChanges R) (d : Dst) : Cmd.Within R (daCommand d) :=
  hR.operand d fun _ x => hR.bind (hR.daRangeCheck x) fun _ => hR.storeByteLast _ _

theorem PortChanges.org (hR : PortChanges R) (a : Half) : Cmd.Within R (orgCommand a) :=
  hR.bind (hR.pcSet hR.answered hR.noted a) fun _ => hR.finishJumped

/-- What `mul` does once CY is cleared: OV, then the two bytes of the product. -/
theorem PortChanges.mulAfterCy (hR : PortChanges R) (hov : ∀ x, Cmd.Within R (writeOv x)) (x : Bool)
    (loAddr hiAddr v w : Byte) :
    Cmd.Within R (writeOv x >>= fun _ => memWrite loAddr v >>= fun _ => memWrite hiAddr w >>= fun _ => finish) :=
  hR.bind (hov x) fun _ => hR.bind (hR.store loAddr v) fun _ => hR.storeByteLast hiAddr w

theorem PortChanges.mul (hR : PortChanges R) (hcy : ∀ x, Cmd.Within R (writeCy x))
    (hov : ∀ x, Cmd.Within R (writeOv x)) : Cmd.Within R mulCommand :=
  hR.bind hR.getConfig fun _ => hR.bind (hR.memRead _) fun _ => hR.bind (hR.memRead _) fun _ =>
    hR.bind (hcy false) fun _ => hR.mulAfterCy hov _ _ _ _ _

/-- `jz` and `jnz`: a branch on the accumulator. -/
theorem PortChanges.branchOnAcc (hR : PortChanges R) (cond : Byte → Bool) (l : Half) :
    Cmd.Within R (getConfig >>= fun cfg => memRead cfg.addrAcc >>= fun a => branch (cond a) l) :=
  hR.bind hR.getConfig fun _ => hR.bind (hR.memRead _) fun _ => hR.branchLast _ l

/-- `jc` and `jnc`: a branch on PSW. -/
theorem PortChanges.branchOnPsw (hR : PortChanges R) (cond : Psw → Bool) (l : Half) :
    Cmd.Within R (getPsw >>= fun psw => branch (cond psw) l) :=
  hR.bind hR.getPsw fun _ => hR.branchLast _ l

theorem PortChanges.decrement (hR : PortChanges R) (ea : Byte) (l : Half) :
    Cmd.Within R (decrementAndBranch ea l) :=
  hR.bind (hR.memRead ea) fun _ => hR.bind (hR.compute_none _ _ _) fun _ => hR.bind (hR.store _ _) fun _ =>
    hR.branchLast _ l

theorem PortChanges.djnz (hR : PortChanges R) (d : Dst) (l : Half) : Cmd.Within R (djnzCommand d l) :=
  hR.bind (hR.resolveDst d) fun ea => hR.decrement ea l

theorem PortChanges.djnzAcc (hR : PortChanges R) (l : Half) : Cmd.Within R (djnzAccCommand l) :=
  hR.bind hR.getConfig fun _ => hR.decrement _ l

theorem PortChanges.cjne (hR : PortChanges R) (hcy : ∀ x, Cmd.Within R (writeCy x)) (d : Dst) (v : Src) (l : Half) :
    Cmd.Within R (cjneCommand d v l) := by
  refine hR.operands d v fun _ y x => ?_
  split
  · exact hR.bind (hcy _) fun _ => hR.branchLast _ l
  · exact hR.bind (hcy _) fun _ => hR.branchLast _ l

end

/-! ### The flag write matrix (R126) -/

/-- Every flag without a mark in w (CY, AC, P, OV) is the same in the two states. -/
structure State.FlagsKept (w : Bool × Bool × Bool × Bool) (s t : State) : Prop where
  cy : w.1 = false → t.psw.cy = s.psw.cy
  ac : w.2.1 = false → t.psw.ac = s.psw.ac
  p : w.2.2.1 = false → t.psw.p = s.psw.p
  ov : w.2.2.2 = false → t.psw.ov = s.psw.ov

theorem State.flagsKept_of_psw_eq {s t : State} (w : Bool × Bool × Bool × Bool) (h : t.psw = s.psw) :
    s.FlagsKept w t :=
  ⟨fun _ => h ▸ rfl, fun _ => h ▸ rfl, fun _ => h ▸ rfl, fun _ => h ▸ rfl⟩

theorem portChanges_flagsKept (w : Bool × Bool × Bool × Bool) : PortChanges (State.FlagsKept w) where
  refl _ := State.flagsKept_of_psw_eq w rfl
  trans _ _ _ h h' :=
    ⟨fun hw => (h'.cy hw).trans (h.cy hw), fun hw => (h'.ac hw).trans (h.ac hw),
      fun hw => (h'.p hw).trans (h.p hw), fun hw => (h'.ov hw).trans (h.ov hw)⟩
  answered _ := State.flagsKept_of_psw_eq w rfl
  wroteBit _ _ _ := State.flagsKept_of_psw_eq w rfl
  wrote _ _ _ := State.flagsKept_of_psw_eq w rfl
  noted _ _ := State.flagsKept_of_psw_eq w rfl

theorem flagsKept_logicFlags (r : Byte) : Cmd.Within (State.FlagsKept (false, false, true, true)) (logicFlags r) :=
  fun _ => ⟨fun _ => rfl, fun _ => rfl, nofun, nofun⟩

theorem flagsKept_writeCy (ov x : Bool) : Cmd.Within (State.FlagsKept (true, false, false, ov)) (writeCy x) :=
  fun _ => ⟨nofun, fun _ => rfl, fun _ => rfl, fun _ => rfl⟩

theorem flagsKept_writeOv (cy x : Bool) : Cmd.Within (State.FlagsKept (cy, false, false, true)) (writeOv x) :=
  fun _ => ⟨fun _ => rfl, fun _ => rfl, fun _ => rfl, nofun⟩

/-- With all four flags marked, nothing is said of them: `add` and `subb` may write any (R126). -/
theorem byteChanges_flagsKept_all : ByteChanges (State.FlagsKept (true, true, true, true)) where
  toComposes := (portChanges_flagsKept _).toComposes
  answered := (portChanges_flagsKept _).answered
  wrote := (portChanges_flagsKept _).wrote
  noted := (portChanges_flagsKept _).noted
  withPsw _ _ := ⟨nofun, nofun, nofun, nofun⟩

/-- The statements of every command keep the flags that its row of R126 does not mark, whatever they end with. -/
theorem flagsKept_commandOf (i : Instr) : Cmd.Within (State.FlagsKept (flagsWritten i.mnemonic)) (commandOf i) :=
  have hR := portChanges_flagsKept (flagsWritten i.mnemonic)
  match i with
  | .movDirDir _ _ | .movDirInd _ _ | .movDirImm _ _ | .movIndDir _ _ | .movIndInd _ _ | .movIndImm _ _ => hR.mov _ _
  | .addDirDir _ _ | .addDirInd _ _ | .addDirImm _ _ | .addIndDir _ _ | .addIndInd _ _ | .addIndImm _ _ =>
    byteChanges_flagsKept_all.add _ _
  | .subbDirDir _ _ | .subbDirInd _ _ | .subbDirImm _ _ | .subbIndDir _ _ | .subbIndInd _ _ | .subbIndImm _ _ =>
    byteChanges_flagsKept_all.subb _ _
  | .anlDirDir _ _ | .anlDirInd _ _ | .anlDirImm _ _ | .anlIndDir _ _ | .anlIndInd _ _ | .anlIndImm _ _ =>
    hR.anl flagsKept_logicFlags _ _
  | .orlDirDir _ _ | .orlDirInd _ _ | .orlDirImm _ _ | .orlIndDir _ _ | .orlIndInd _ _ | .orlIndImm _ _ =>
    hR.orl flagsKept_logicFlags _ _
  | .incDir _ | .incInd _ => hR.inc _
  | .decDir _ | .decInd _ => hR.dec _
  | .rlDir _ | .rlInd _ => hR.rl _
  | .rrDir _ | .rrInd _ => hR.rr _
  | .daDir _ | .daInd _ => hR.da _
  | .org _ => hR.org _
  | .mul => hR.mul (flagsKept_writeCy true) (flagsKept_writeOv true)
  | .setb _ | .clr _ => hR.storeLast _ _
  | .cpl _ => hR.cpl _
  | .jz l => hR.branchOnAcc (· == 0) l
  | .jnz l => hR.branchOnAcc (· != 0) l
  | .jc l => hR.branchOnPsw (·.cy) l
  | .jnc l => hR.branchOnPsw (!·.cy) l
  | .djnzDir _ _ | .djnzInd _ _ => hR.djnz _ _
  | .djnzAcc _ => hR.djnzAcc _
  | .cjneDirDir _ _ _ | .cjneDirInd _ _ _ | .cjneDirImm _ _ _ | .cjneIndDir _ _ _ | .cjneIndInd _ _ _
  | .cjneIndImm _ _ _ => hR.cjne (flagsKept_writeCy false) _ _ _
  | .jb | .jnb => hR.raise _ _

/-- The status a command ends with touches no flag. -/
theorem flagsKept_runCommand {w : Bool × Bool × Bool × Bool} {c : Cmd Xfer} (hc : Cmd.Within (State.FlagsKept w) c)
    {s t : State} (h : runCommand c s = .next t) : s.FlagsKept w t := by
  obtain ⟨st, n, x, rfl⟩ := runCommand_eq_next h
  obtain ⟨hcy, hac, hp, hov⟩ := hc s
  exact ⟨hcy, hac, hp, hov⟩

theorem exec_flagsKept {i : Instr} {s t : State} (h : exec i s = .next t) :
    s.FlagsKept (flagsWritten i.mnemonic) t :=
  flagsKept_runCommand (flagsKept_commandOf i) ((exec_eq i s).symm.trans h)

/-- A command that ends with OK had its reads served. -/
theorem runCommand_memRead_of_ok {a : Byte} {f : Byte → Cmd Xfer} {s t : State}
    (h : runCommand (memRead a >>= f) s = .next t) (ht : t.status = .ok) :
    runCommand (f (s.mem.read a)) s = .next t := by
  cases hs : s.memServes a with
  | true => exact (runCommand_congr (Cmd.run_bind_ok (memRead_ok hs))).symm.trans h
  | false =>
    rw [runCommand_error (Cmd.run_bind_error (memRead_fail hs))] at h
    cases h
    cases ht

/-- A completed `mul` has cleared CY: past its two reads it writes CY = 0, and no later statement writes CY (R155). -/
theorem cy_eq_false_of_exec_mul {s t : State} (h : exec .mul s = .next t) (ht : t.status = .ok) :
    t.psw.cy = false := by
  have hreads := (runCommand_getConfig _ s).symm.trans h
  have hcy := runCommand_memRead_of_ok (runCommand_memRead_of_ok hreads ht) ht
  have hrest := (runCommand_congr (Cmd.run_bind_ok (run_writeCy false s))).symm.trans hcy
  have hR := portChanges_flagsKept (false, false, false, true)
  exact (flagsKept_runCommand (hR.mulAfterCy (flagsKept_writeOv false) _ _ _ _ _) hrest).cy rfl

theorem Instr.eq_mul_of_mnemonic {i : Instr} (h : i.mnemonic = .mul) : i = .mul := by
  cases i <;> cases h
  rfl

/-- Settles O46: each statement of a command keeps the unmarked flags, and `mul` clears CY before it can complete. -/
theorem flagWriteMatrix : Obligations.FlagWriteMatrix := by
  intro i s t h
  have hkept := exec_flagsKept h
  refine ⟨hkept.cy, hkept.ac, hkept.p, hkept.ov, fun hi ht => ?_⟩
  rw [Instr.eq_mul_of_mnemonic hi] at h
  exact cy_eq_false_of_exec_mul h ht

end Sys2Proof.Machine
end

section
/-! The ALU and logic commands (41_alu.md R140 to R155): the next state each gives, in every case, and what it leaves
unchanged. -/

namespace Sys2Proof.Machine

/-! ### Encodings (R81, R83, R84) -/

theorem ofWord_cw_headWith (op : Byte) (m1 m2 : Mode) (f1 f2 : Byte) (x16 : Half) :
    Command.ofWord (cw (headWith op m1 m2) f1 f2 x16) = ⟨op, m1, m2, 0, f1, f2, x16⟩ := by
  rw [Command.ofWord_cw, headWith_op, headWith_m1, headWith_m2, headWith_rsv, Mode.ofBits_bits, Mode.ofBits_bits]

/-- A word with RSV = 0000 decodes to the instruction its mnemonic builds from its fields. -/
theorem decode_cw_of_build? {op : Byte} {m : Mnemonic} {i : Instr} (hm : Mnemonic.ofOpcode? op = some m)
    (hbb : m.format ≠ .bb) {m1 m2 : Mode} {f1 f2 : Byte} {x16 : Half}
    (hi : Command.build? m ⟨op, m1, m2, 0, f1, f2, x16⟩ = some i) :
    decode (cw (headWith op m1 m2) f1 f2 x16) = .ok i := by
  rw [decode_of_checked (by rw [ofWord_cw_headWith]; exact hm) hbb, ofWord_cw_headWith, if_pos rfl, hi]
  rfl

/-- The fields of a destination and a source are read back as these operands. -/
theorem twoOperands?_of_operands (op : Byte) (rsv : BitVec 4) (d : Dst) (v : Src) (x16 : Half) :
    Command.twoOperands? ⟨op, d.mode, v.mode, rsv, d.field, v.field, x16⟩ = some (d, v) := by
  cases d <;> cases v <;> rfl

theorem oneOperand?_of_operand (op : Byte) (rsv : BitVec 4) (d : Dst) (f2 : Byte) (x16 : Half) :
    Command.oneOperand? ⟨op, d.mode, .none, rsv, d.field, f2, x16⟩ = some d := by
  cases d <;> rfl

theorem decodesTwoOperand {op : Byte} {m : Mnemonic} {f : Dst → Src → Instr} (hm : Mnemonic.ofOpcode? op = some m)
    (hbb : m.format ≠ .bb) (hf : ∀ c : Command, c.build? m = c.twoOperands?.map fun o => f o.1 o.2) :
    DecodesTwoOperand op f := fun d v x16 =>
  decode_cw_of_build? hm hbb (by rw [hf, twoOperands?_of_operands]; rfl)

theorem decodesOneOperand {op : Byte} {m : Mnemonic} {f : Dst → Instr} (hm : Mnemonic.ofOpcode? op = some m)
    (hbb : m.format ≠ .bb) (hf : ∀ c : Command, c.build? m = c.oneOperand?.map f) : DecodesOneOperand op f :=
  fun d f2 x16 => decode_cw_of_build? hm hbb (by rw [hf, oneOperand?_of_operand]; rfl)

/-! ### How a command that reads, then stores, ends -/

/-- The next state of a command that reads these bytes, and would end as `t` if they are all served: the first one that
is not served ends it with MEM_READ_FAIL (R61, R264). -/
def State.afterReads (s : State) (reads : List Byte) (t : State) : State :=
  match s.firstUnserved reads with
  | none => t
  | some b => s.raised .memReadFail (zext16 b)

/-- The next state of a command whose last statements store one byte and finish. -/
def State.stored (s : State) (a v : Byte) : State :=
  if s.memAccepts a = true then (s.wrote a v).completed else s.answered.raised .memWriteFail (zext16 a)

/-- The next state of a command whose last statements store two bytes, in this order, and finish. -/
def State.storedTwice (s : State) (a v b w : Byte) : State :=
  if s.memAccepts a = true then (s.wrote a v).stored b w else s.answered.raised .memWriteFail (zext16 a)

theorem State.afterReads_of_none {s : State} {reads : List Byte} (h : s.firstUnserved reads = none) (t : State) :
    s.afterReads reads t = t := by
  rw [afterReads, h]

theorem State.afterReads_of_some {s : State} {reads : List Byte} {b : Byte} (h : s.firstUnserved reads = some b)
    (t : State) : s.afterReads reads t = s.raised .memReadFail (zext16 b) := by
  rw [afterReads, h]

/-- What holds of the end without a failing read and of every failing read holds of the end. -/
theorem State.afterReads_induction {P : State → Prop} {s t : State} (reads : List Byte)
    (hfail : ∀ n, P (s.raised .memReadFail n)) (ht : P t) : P (s.afterReads reads t) := by
  cases h : s.firstUnserved reads with
  | none => rwa [afterReads_of_none h]
  | some b => rw [afterReads_of_some h]; exact hfail _

theorem State.stored_of_accepts {s : State} {a : Byte} (v : Byte) (h : s.memAccepts a = true) :
    s.stored a v = (s.wrote a v).completed := if_pos h

theorem State.stored_of_refuses {s : State} {a : Byte} (v : Byte) (h : s.memAccepts a = false) :
    s.stored a v = s.answered.raised .memWriteFail (zext16 a) := if_neg (by simp [h])

theorem State.storedTwice_of_accepts {s : State} {a : Byte} (v b w : Byte) (h : s.memAccepts a = true) :
    s.storedTwice a v b w = (s.wrote a v).stored b w := if_pos h

theorem State.storedTwice_of_refuses {s : State} {a : Byte} (v b w : Byte) (h : s.memAccepts a = false) :
    s.storedTwice a v b w = s.answered.raised .memWriteFail (zext16 a) := if_neg (by simp [h])

@[simp] theorem State.stored_psw (s : State) (a v : Byte) : (s.stored a v).psw = s.psw := by
  unfold stored; split <;> rfl

@[simp] theorem State.stored_bits (s : State) (a v : Byte) : (s.stored a v).bits = s.bits := by
  unfold stored; split <;> rfl

@[simp] theorem State.stored_target (s : State) (a v : Byte) : (s.stored a v).target = s.target := by
  unfold stored; split <;> rfl

theorem State.stored_read_of_ne (s : State) {a b : Byte} (v : Byte) (h : b ≠ a) :
    (s.stored a v).mem.read b = s.mem.read b := by
  unfold stored
  split
  · exact Memory.read_write_of_ne s.mem v h
  · rfl

@[simp] theorem State.storedTwice_target (s : State) (a v b w : Byte) :
    (s.storedTwice a v b w).target = s.target := by
  unfold storedTwice
  split
  · exact stored_target _ b w
  · rfl

theorem State.storedTwice_read_of_ne (s : State) {a b c : Byte} (v w : Byte) (ha : c ≠ a) (hb : c ≠ b) :
    (s.storedTwice a v b w).mem.read c = s.mem.read c := by
  unfold storedTwice
  split
  · exact (stored_read_of_ne _ w hb).trans (Memory.read_write_of_ne s.mem v ha)
  · rfl

/-- A command that resolves two operands, without reading the first (R141). -/
theorem runCommand_dst_src_next (d : Dst) (v : Src) (f : Byte → Byte → Cmd Xfer) {s t : State}
    (h : runCommand (f (s.dstAddr d) (s.srcValue v)) s = .next t) :
    runCommand (resolveDst d >>= fun ea => resolveSrc v >>= fun y => f ea y) s =
      .next (s.afterReads (s.dstReads d ++ s.srcReads v) t) := by
  have hrun := run_bind_dst_src d v f s
  cases hu : s.firstUnserved (s.dstReads d ++ s.srcReads v) with
  | none => rw [hu] at hrun; rw [State.afterReads_of_none hu, ← h]; exact runCommand_congr hrun
  | some b => rw [hu] at hrun; rw [State.afterReads_of_some hu]; exact runCommand_error hrun

theorem runCommand_operands_next (d : Dst) (v : Src) (f : Byte → Byte → Byte → Cmd Xfer) {s t : State}
    (h : runCommand (f (s.dstAddr d) (s.srcValue v) (s.dstValue d)) s = .next t) :
    runCommand (resolveDst d >>= fun ea => resolveSrc v >>= fun y => memRead ea >>= fun x => f ea y x) s =
      .next (s.afterReads (s.dstReads d ++ s.srcReads v ++ [s.dstAddr d]) t) := by
  rw [runCommand_operands, State.afterReads]
  cases s.firstUnserved (s.dstReads d ++ s.srcReads v ++ [s.dstAddr d]) with
  | none => exact h
  | some b => rfl

theorem runCommand_operand_next (d : Dst) (f : Byte → Byte → Cmd Xfer) {s t : State}
    (h : runCommand (f (s.dstAddr d) (s.dstValue d)) s = .next t) :
    runCommand (resolveDst d >>= fun ea => memRead ea >>= fun x => f ea x) s =
      .next (s.afterReads (s.dstReads d ++ [s.dstAddr d]) t) := by
  rw [runCommand_operand, State.afterReads]
  cases s.firstUnserved (s.dstReads d ++ [s.dstAddr d]) with
  | none => exact h
  | some b => rfl

theorem runCommand_memRead_next (a : Byte) (f : Byte → Cmd Xfer) {s t : State} {reads : List Byte}
    (h : runCommand (f (s.mem.read a)) s = .next (s.afterReads reads t)) :
    runCommand (memRead a >>= f) s = .next (s.afterReads (a :: reads) t) := by
  cases ha : s.memServes a with
  | true =>
    rw [runCommand_congr (Cmd.run_bind_ok (memRead_ok ha)), h, State.afterReads, State.afterReads,
      State.firstUnserved_cons, if_pos ha]
  | false =>
    rw [runCommand_error (Cmd.run_bind_error (memRead_fail ha)), State.afterReads_of_some (b := a)]
    rw [State.firstUnserved_cons, if_neg (by simp [ha])]

theorem runCommand_store (a v : Byte) (s : State) :
    runCommand (memWrite a v >>= fun _ => finish) s = .next (s.stored a v) :=
  runCommand_memWrite_finish a v s

theorem runCommand_storeTwice (a v b w : Byte) (s : State) :
    runCommand (memWrite a v >>= fun _ => memWrite b w >>= fun _ => finish) s = .next (s.storedTwice a v b w) := by
  cases h : s.memAccepts a with
  | true =>
    rw [State.storedTwice_of_accepts v b w h, ← runCommand_store]
    exact runCommand_congr (Cmd.run_bind_ok (memWrite_ok v h))
  | false =>
    rw [State.storedTwice_of_refuses v b w h]
    exact runCommand_error (Cmd.run_bind_error (memWrite_fail v h))

/-! ### The next state of each command, in every case -/

theorem exec_mov_next (d : Dst) (v : Src) (s : State) :
    exec (.mov d v) s =
      .next (s.afterReads (s.dstReads d ++ s.srcReads v) (s.stored (s.dstAddr d) (s.srcValue v))) := by
  rw [exec_mov]
  exact runCommand_dst_src_next d v _ (runCommand_store _ _ s)

theorem exec_add_next (d : Dst) (v : Src) (s : State) :
    exec (.add d v) s = .next (s.afterReads (s.dstReads d ++ s.srcReads v ++ [s.dstAddr d])
      (State.stored { s with psw := addFlags (s.dstValue d) (s.srcValue v) } (s.dstAddr d)
        (s.dstValue d + s.srcValue v))) := by
  rw [exec_add]
  refine runCommand_operands_next d v _ ?_
  rw [runCommand_compute, computeResult_add, computePsw_add_all]
  exact runCommand_store _ _ _

/-- The carry-in step and the compute of `subb` (R143, R144): the step clears CY only where the compute writes it. -/
theorem runCommand_takeCarryIn_compute (a x : Byte) (f : Byte → Cmd Xfer) (s : State) :
    runCommand (takeCarryIn x >>= fun y => compute a y .sub .all >>= f) s =
      runCommand (f (a - if s.psw.cy then x + 1 else x))
        { s with psw := subbFlags s.cfg.subCyRule a (if s.psw.cy then x + 1 else x) } := by
  have htake : (takeCarryIn x).run s = .ok (if s.psw.cy then x + 1 else x)
      (if s.psw.cy then { s with psw := { s.psw with cy := false } } else s) := by
    unfold takeCarryIn
    rw [Cmd.run_bind_ok (run_getPsw s)]
    cases s.psw.cy <;> rfl
  rw [runCommand_congr (Cmd.run_bind_ok htake), runCommand_compute, computeResult_sub, computePsw_sub_all]
  cases s.psw.cy <;> rfl

theorem exec_subb_next (d : Dst) (v : Src) (s : State) :
    exec (.subb d v) s = .next (s.afterReads (s.dstReads d ++ s.srcReads v ++ [s.dstAddr d])
      (State.stored { s with psw := subbFlags s.cfg.subCyRule (s.dstValue d) (s.subtrahend v) } (s.dstAddr d)
        (s.dstValue d - s.subtrahend v))) := by
  rw [exec_subb]
  refine runCommand_operands_next d v _ ?_
  rw [runCommand_takeCarryIn_compute]
  exact runCommand_store _ _ _

/-- `anl` and `orl`: P and OV of the result are written before it is stored. -/
theorem runCommand_logic_next (op : Byte → Byte → Byte) (d : Dst) (v : Src) (s : State) :
    runCommand (resolveDst d >>= fun ea => resolveSrc v >>= fun y => memRead ea >>= fun x =>
      logicFlags (op x y) >>= fun _ => memWrite ea (op x y) >>= fun _ => finish) s =
      .next (s.afterReads (s.dstReads d ++ s.srcReads v ++ [s.dstAddr d])
        (State.stored { s with psw := logicFlagsOf (op (s.dstValue d) (s.srcValue v)) s.psw } (s.dstAddr d)
          (op (s.dstValue d) (s.srcValue v)))) := by
  refine runCommand_operands_next d v _ ?_
  rw [runCommand_logicFlags]
  exact runCommand_store _ _ _

theorem exec_anl_next (d : Dst) (v : Src) (s : State) :
    exec (.anl d v) s = .next (s.afterReads (s.dstReads d ++ s.srcReads v ++ [s.dstAddr d])
      (State.stored { s with psw := logicFlagsOf (s.dstValue d &&& s.srcValue v) s.psw } (s.dstAddr d)
        (s.dstValue d &&& s.srcValue v))) :=
  (exec_anl d v s).trans (runCommand_logic_next (· &&& ·) d v s)

theorem exec_orl_next (d : Dst) (v : Src) (s : State) :
    exec (.orl d v) s = .next (s.afterReads (s.dstReads d ++ s.srcReads v ++ [s.dstAddr d])
      (State.stored { s with psw := logicFlagsOf (s.dstValue d ||| s.srcValue v) s.psw } (s.dstAddr d)
        (s.dstValue d ||| s.srcValue v))) :=
  (exec_orl d v s).trans (runCommand_logic_next (· ||| ·) d v s)

theorem exec_inc_next (d : Dst) (s : State) :
    exec (.inc d) s = .next (s.afterReads (s.dstReads d ++ [s.dstAddr d])
      (s.stored (s.dstAddr d) (s.dstValue d + 1))) := by
  rw [exec_inc]
  exact runCommand_operand_next d _ (runCommand_store _ _ s)

theorem exec_dec_next (d : Dst) (s : State) :
    exec (.dec d) s = .next (s.afterReads (s.dstReads d ++ [s.dstAddr d])
      (s.stored (s.dstAddr d) (s.dstValue d - 1))) := by
  rw [exec_dec]
  refine runCommand_operand_next d _ ?_
  rw [runCommand_compute, computeResult_sub, computePsw_none]
  exact runCommand_store _ _ s

/-- `rl` and `rr`: the rotated byte is stored at the rotate target (R151). -/
theorem runCommand_rotate_next (rotate : Byte → Byte) (d : Dst) (s : State) :
    runCommand (resolveDst d >>= fun ea => memRead ea >>= fun x => getConfig >>= fun cfg =>
      memWrite (rotateTarget cfg ea) (rotate x) >>= fun _ => finish) s =
      .next (s.afterReads (s.dstReads d ++ [s.dstAddr d])
        (s.stored (rotateTarget s.cfg (s.dstAddr d)) (rotate (s.dstValue d)))) := by
  refine runCommand_operand_next d _ ?_
  rw [runCommand_getConfig]
  exact runCommand_store _ _ s

theorem exec_rl_next (d : Dst) (s : State) :
    exec (.rl d) s = .next (s.afterReads (s.dstReads d ++ [s.dstAddr d])
      (s.stored (rotateTarget s.cfg (s.dstAddr d)) (rol8 (s.dstValue d)))) :=
  (exec_rl d s).trans (runCommand_rotate_next rol8 d s)

theorem exec_rr_next (d : Dst) (s : State) :
    exec (.rr d) s = .next (s.afterReads (s.dstReads d ++ [s.dstAddr d])
      (s.stored (rotateTarget s.cfg (s.dstAddr d)) (ror8 (s.dstValue d)))) :=
  (exec_rr d s).trans (runCommand_rotate_next ror8 d s)

/-- The range check comes before the store (R152, R153). -/
theorem exec_da_next (d : Dst) (s : State) :
    exec (.da d) s = .next (s.afterReads (s.dstReads d ++ [s.dstAddr d])
      (if (s.dstValue d).toNat ≥ 100 ∧ s.cfg.daWide = .fault then s.raised .valueRange (zext16 (s.dstValue d))
        else s.stored (s.dstAddr d) (bcd2 (s.dstValue d)))) := by
  rw [exec_da]
  refine runCommand_operand_next d _ ?_
  have hcheck : (daRangeCheck (s.dstValue d)).run s =
      if (s.dstValue d).toNat ≥ 100 ∧ s.cfg.daWide = .fault then .error ⟨.valueRange, zext16 (s.dstValue d)⟩ s
      else .ok () s := by
    unfold daRangeCheck
    rw [Cmd.run_bind_ok (run_getConfig s)]
    split <;> rfl
  split at hcheck
  · next h => rw [if_pos h]; exact runCommand_error (Cmd.run_bind_error hcheck)
  · next h => rw [if_neg h, runCommand_congr (Cmd.run_bind_ok hcheck)]; exact runCommand_store _ _ s

/-- A is read before B, the flags are written before the bytes (R155). -/
theorem exec_mul_next (s : State) :
    exec .mul s = .next (s.afterReads [s.cfg.addrAcc, s.cfg.addrB]
      (State.storedTwice
        { s with psw := { s.psw with cy := false, ov := decide (s.acc.toNat * s.regB.toNat / 256 ≠ 0) } }
        s.cfg.mulLoAddr (BitVec.ofNat 8 (s.acc.toNat * s.regB.toNat % 256))
        s.cfg.mulHiAddr (BitVec.ofNat 8 (s.acc.toNat * s.regB.toNat / 256)))) := by
  refine (runCommand_getConfig _ s).trans (runCommand_memRead_next _ _ (runCommand_memRead_next _ _ ?_))
  rw [runCommand_congr (Cmd.run_bind_ok (run_writeCy false s)), runCommand_congr (Cmd.run_bind_ok (run_writeOv _ _)),
    runCommand_storeTwice, highByte_product_ne_zero, lowByte_product, highByte_product]
  rfl

/-! ### What each command does (R141 to R155) -/

/-- The three ways a command ends whose last statements store one byte: completed, the write refused, a read failed. -/
theorem storeOutcomes {o : Host.Outcome State Fault Refusal} {s f : State} {reads : List Byte} {a v : Byte}
    (ho : o = .next (s.afterReads reads (f.stored a v))) (hf : f.memAccepts a = s.memAccepts a) :
    (s.firstUnserved reads = none → s.memAccepts a = true →
      ∃ q, o = .next (State.completed { f with answers := q, mem := f.mem.write a v })) ∧
    (s.firstUnserved reads = none → s.memAccepts a = false →
      ∃ q, o = .next (State.raised { f with answers := q } .memWriteFail (zext16 a))) ∧
    (∀ b, s.firstUnserved reads = some b → o = .next (s.raised .memReadFail (zext16 b))) := by
  subst ho
  refine ⟨fun hr ha => ?completed, fun hr ha => ?refused, fun b hr => ?unread⟩
  case completed => rw [State.afterReads_of_none hr, State.stored_of_accepts v (hf.trans ha)]; exact ⟨_, rfl⟩
  case refused => rw [State.afterReads_of_none hr, State.stored_of_refuses v (hf.trans ha)]; exact ⟨_, rfl⟩
  case unread => rw [State.afterReads_of_some hr]

/-- Settles O20: `mov` resolves its operands and stores. -/
theorem movMovesTheSource : Obligations.MovMovesTheSource :=
  ⟨decodesTwoOperand (m := .mov) rfl nofun fun _ => rfl, fun d v s => (storeOutcomes (exec_mov_next d v s) rfl :)⟩

/-- Settles O21: the flags are in the state from which `add` stores. -/
theorem addStoresSumAndFlags : Obligations.AddStoresSumAndFlags :=
  ⟨decodesTwoOperand (m := .add) rfl nofun fun _ => rfl, fun d v s => (storeOutcomes (exec_add_next d v s) rfl :)⟩

/-- Settles O22: the flags of d and the subtrahend are in the state from which `subb` stores. -/
theorem subbStoresDifferenceAndFlags : Obligations.SubbStoresDifferenceAndFlags :=
  ⟨decodesTwoOperand (m := .subb) rfl nofun fun _ => rfl, fun d v s => (storeOutcomes (exec_subb_next d v s) rfl :)⟩

/-- Settles O24: P and OV are in the state from which `anl` stores. -/
theorem anlStoresAndWithFlags : Obligations.AnlStoresAndWithFlags :=
  ⟨decodesTwoOperand (m := .anl) rfl nofun fun _ => rfl, fun d v s => (storeOutcomes (exec_anl_next d v s) rfl :)⟩

/-- Settles O25: P and OV are in the state from which `orl` stores. -/
theorem orlStoresOrWithFlags : Obligations.OrlStoresOrWithFlags :=
  ⟨decodesTwoOperand (m := .orl) rfl nofun fun _ => rfl, fun d v s => (storeOutcomes (exec_orl_next d v s) rfl :)⟩

/-- Settles O23: with the reads served, both runs store from the subtrahend (b + 1) mod 256. -/
theorem subbCarryInLaw : Obligations.SubbCarryInLaw := by
  intro d v v' s hreads hval
  simp only [State.firstUnserved_append, Option.or_eq_none_iff] at hreads
  obtain ⟨⟨⟨hd, hv⟩, hv'⟩, ha⟩ := hreads
  have hserved : ∀ w x, s.firstUnserved (s.srcReads w) = none → (s.writeFlag .cy x).firstUnserved
      ((s.writeFlag .cy x).dstReads d ++ (s.writeFlag .cy x).srcReads w ++ [(s.writeFlag .cy x).dstAddr d]) = none := by
    intro w x hw
    show s.firstUnserved (s.dstReads d ++ s.srcReads w ++ [s.dstAddr d]) = none
    simp only [State.firstUnserved_append, hd, hw, ha, Option.or_none]
  have hsub : (s.writeFlag .cy true).subtrahend v = (s.writeFlag .cy false).subtrahend v' := hval.symm
  show exec (.subb d v) (s.writeFlag .cy true) = exec (.subb d v') (s.writeFlag .cy false)
  rw [exec_subb_next, exec_subb_next, State.afterReads_of_none (hserved v true hv),
    State.afterReads_of_none (hserved v' false hv'), hsub]
  rfl

theorem byte_add_one (x : Byte) : x + 1 = BitVec.ofNat 8 ((x.toNat + 1) % 256) := by
  apply BitVec.eq_of_toNat_eq
  rw [BitVec.toNat_add, BitVec.toNat_ofNat, Nat.mod_mod]
  rfl

theorem byte_sub_one (x : Byte) : x - 1 = BitVec.ofNat 8 ((x.toNat + 255) % 256) := by
  apply BitVec.eq_of_toNat_eq
  rw [BitVec.toNat_sub, BitVec.toNat_ofNat, Nat.mod_mod, Nat.add_comm]
  rfl

/-- Settles O26: `inc` stores d + 1 and has no compute. -/
theorem incAddsOneWithoutFlags : Obligations.IncAddsOneWithoutFlags :=
  ⟨decodesOneOperand (m := .inc) rfl nofun fun _ => rfl, fun d s =>
    byte_add_one (s.dstValue d) ▸ (storeOutcomes (exec_inc_next d s) rfl :)⟩

/-- Settles O27: `dec` stores d - 1, and its compute has every flag disabled. -/
theorem decSubtractsOneWithoutFlags : Obligations.DecSubtractsOneWithoutFlags :=
  ⟨decodesOneOperand (m := .dec) rfl nofun fun _ => rfl, fun d s =>
    byte_sub_one (s.dstValue d) ▸ (storeOutcomes (exec_dec_next d s) rfl :)⟩

/-- `rol8` moves bit 7 to bit 0 (R10). -/
theorem rol8_eq_append (v : Byte) : rol8 v = v.extractLsb' 0 7 ++ v.extractLsb' 7 1 := by
  revert v; decide

/-- `ror8` moves bit 0 to bit 7 (R10). -/
theorem ror8_eq_append (v : Byte) : ror8 v = v.extractLsb' 0 1 ++ v.extractLsb' 1 7 := by
  revert v; decide

/-- Settles O28: `rl` stores at the rotate target. -/
theorem rlRotatesLeftIntoTarget : Obligations.RlRotatesLeftIntoTarget := by
  refine ⟨decodesOneOperand (m := .rl) rfl nofun fun _ => rfl, fun d s ta hta => ?_⟩
  have hta : ta = rotateTarget s.cfg (s.dstAddr d) := hta
  rw [hta, ← rol8_eq_append]
  exact storeOutcomes (exec_rl_next d s) rfl

/-- Settles O29: `rr` stores at the rotate target. -/
theorem rrRotatesRightIntoTarget : Obligations.RrRotatesRightIntoTarget := by
  refine ⟨decodesOneOperand (m := .rr) rfl nofun fun _ => rfl, fun d s ta hta => ?_⟩
  have hta : ta = rotateTarget s.cfg (s.dstAddr d) := hta
  rw [hta, ← ror8_eq_append]
  exact storeOutcomes (exec_rr_next d s) rfl

/-- The digit of the hundreds is above the low byte (R153). -/
theorem bcd2_eq_threeDigits (x : Byte) :
    bcd2 x = BitVec.ofNat 8 (256 * (x.toNat / 100) + 16 * ((x.toNat / 10) % 10) + x.toNat % 10) := by
  apply BitVec.eq_of_toNat_eq
  rw [bcd2, BitVec.toNat_ofNat, BitVec.toNat_ofNat, Nat.add_assoc, Nat.mul_add_mod]

/-- `da` with a value its range check lets pass. -/
theorem exec_da_next_of_inRange {d : Dst} {s : State}
    (h : (s.dstValue d).toNat < 100 ∨ s.cfg.daWide = .truncate) :
    exec (.da d) s = .next (s.afterReads (s.dstReads d ++ [s.dstAddr d])
      (s.stored (s.dstAddr d) (bcd2 (s.dstValue d)))) := by
  rw [exec_da_next, if_neg]
  rintro ⟨hge, hfault⟩
  rcases h with hlt | htrunc
  · omega
  · rw [htrunc] at hfault; cases hfault

/-- Settles O31: past its range check `da` stores `bcd2`, and a value that fails the check ends it before the store. -/
theorem daConvertsToDecimalDigits : Obligations.DaConvertsToDecimalDigits := by
  refine ⟨decodesOneOperand (m := .da) rfl nofun fun _ => rfl, fun d s r hr => ?_⟩
  obtain rfl : r = bcd2 (s.dstValue d) := hr
  refine ⟨bcd2_eq_threeDigits _, fun hreads hin hacc => ?completed, fun hreads hin hacc => ?refused,
    fun hreads hge hfault => ?outOfRange, fun b hreads => ?unread⟩
  case completed =>
    obtain ⟨hcompleted, -, -⟩ := storeOutcomes (exec_da_next_of_inRange hin) rfl
    exact hcompleted hreads hacc
  case refused =>
    obtain ⟨-, hrefused, -⟩ := storeOutcomes (exec_da_next_of_inRange hin) rfl
    exact hrefused hreads hacc
  case outOfRange => rw [exec_da_next, State.afterReads_of_none hreads, if_pos ⟨hge, hfault⟩]
  case unread => rw [exec_da_next, State.afterReads_of_some hreads]

/-! ### Rotating back (R151) -/

/-- A command that completed had its reads served and its write accepted: it stored its byte. -/
theorem cfg_and_mem_of_ok {i : Instr} {s t : State} {reads : List Byte} {a v : Byte}
    (hexec : exec i s = .next (s.afterReads reads (s.stored a v))) (h : exec i s = .next t) (ht : t.status = .ok) :
    t.cfg = s.cfg ∧ t.mem = s.mem.write a v := by
  obtain rfl : s.afterReads reads (s.stored a v) = t := Host.Outcome.next.inj (hexec.symm.trans h)
  cases hr : s.firstUnserved reads with
  | some b => rw [State.afterReads_of_some hr] at ht; cases ht
  | none =>
    rw [State.afterReads_of_none hr] at ht ⊢
    cases ha : s.memAccepts a with
    | true => rw [State.stored_of_accepts v ha]; exact ⟨rfl, rfl⟩
    | false => rw [State.stored_of_refuses v ha] at ht; cases ht

theorem State.dstAddr_congr {s t : State} (h : ∀ b, t.mem.read b = s.mem.read b) (d : Dst) :
    t.dstAddr d = s.dstAddr d := by
  cases d with
  | direct a => rfl
  | indirect p => exact h p

theorem State.dstValue_congr {s t : State} (h : ∀ b, t.mem.read b = s.mem.read b) (d : Dst) :
    t.dstValue d = s.dstValue d := by
  rw [dstValue, dstValue, dstAddr_congr h, h]

/-- Storing at an address and then its old byte again leaves every byte as it was. -/
theorem Memory.read_write_restore (m : Memory) (a v b : Byte) :
    ((m.write a v).write a (m.read a)).read b = m.read b := by
  by_cases h : b = a
  · rw [h, Memory.read_write_self]
  · rw [Memory.read_write_of_ne _ _ h, Memory.read_write_of_ne _ _ h]

theorem ror8_eq_self_iff (x : Byte) : ror8 x = x ↔ x = 0x00 ∨ x = 0xFF := by
  revert x; decide

/-- Settles O30: with target and operand one byte, `rr` stores `ror8 (rol8 d)`, the old byte; otherwise neither touches
the operand byte. -/
theorem rotateRoundTrip : Obligations.RotateRoundTrip := by
  refine ⟨fun d s t u hrl hrr htok huok haddr => ?_, ror8_eq_self_iff⟩
  obtain ⟨htcfg, htmem⟩ := cfg_and_mem_of_ok (exec_rl_next d s) hrl htok
  obtain ⟨hucfg, humem⟩ := cfg_and_mem_of_ok (exec_rr_next d t) hrr huok
  rw [State.dstValue, haddr, htcfg] at humem
  refine ⟨fun hsame => ?same, fun hacc hne => ?other⟩
  case same =>
    have htarget : rotateTarget s.cfg (s.dstAddr d) = s.dstAddr d := by
      rcases hsame with hoperand | haccumulator
      · rw [rotateTarget, hoperand]
      · rw [rotateTarget, ← haccumulator]; cases s.cfg.rotateDest <;> rfl
    have hread : ∀ b, u.mem.read b = s.mem.read b := fun b => by
      rw [humem, htmem, htarget, Memory.read_write_self, ror8_rol8]
      exact Memory.read_write_restore _ _ _ b
    exact ⟨State.dstValue_congr hread d, hread _⟩
  case other =>
    have htarget : rotateTarget s.cfg (s.dstAddr d) = s.cfg.addrAcc := by rw [rotateTarget, hacc]
    have htval : t.mem.read (s.dstAddr d) = s.dstValue d := by
      rw [htmem, htarget, Memory.read_write_of_ne _ _ hne]; rfl
    rw [htarget, htval] at humem
    constructor
    · rw [humem, Memory.read_write_of_ne _ _ hne, htval]
    · rw [State.acc, hucfg, htcfg, humem, Memory.read_write_self]

/-! ### Origin and multiply (R154, R155) -/

theorem decodesX16 {op : Byte} {m : Mnemonic} {f : Half → Instr} (hm : Mnemonic.ofOpcode? op = some m)
    (hbb : m.format ≠ .bb) (hf : ∀ c : Command, c.build? m = if c.noOperand then some (f c.x16) else none) :
    DecodesX16 op f := fun _ _ _ => decode_cw_of_build? hm hbb ((hf _).trans rfl)

theorem exec_org_of_accepts {a : Half} {s : State} (h : s.pcAccepts a = true) :
    exec (.org a) s = .next (s.answered.transferred a) :=
  runCommand_ok (Cmd.run_bind_ok (pcSet_ok h))

theorem exec_org_of_refuses {a : Half} {s : State} (h : s.pcAccepts a = false) :
    exec (.org a) s = .next (s.answered.raised .pcWriteFail a) :=
  runCommand_error (Cmd.run_bind_error (pcSet_fail h))

/-- A step presents the word at PC with the target cleared, and advances (R281). -/
theorem step_of_decode {s t : State} {w : CW} {i : Instr} (hs : s.stopped = false) (hw : s.prog.word? s.pc = some w)
    (hd : decode w = .ok i) (ht : exec i s.clearTarget = .next t) : step s = .next t.advance := by
  have hfetch : s.fetch = some w := hw
  simp only [step, dispatcherStep, hs, hfetch, present_of_decode_ok hd, ht]
  rfl

/-- After a transfer the dispatcher goes to the target. -/
theorem State.advance_transferred (s : State) (a : Half) :
    (s.transferred a).advance = { s.transferred a with pc := a } := rfl

/-- Settles O32: `org` is one request, and the dispatcher advances to the target it noted. -/
theorem orgSetsProgramCounter : Obligations.OrgSetsProgramCounter := by
  refine ⟨decodesX16 (m := .org) rfl nofun fun _ => rfl, fun a s => ⟨fun ha => ?accepted, fun ha => ?refused,
    fun w ha hs hw hd => ?step⟩⟩
  case accepted => exact ⟨_, exec_org_of_accepts ha⟩
  case refused => exact ⟨_, exec_org_of_refuses ha⟩
  case step =>
    exact ⟨_, (step_of_decode hs hw hd (exec_org_of_accepts ha)).trans (congrArg _ (State.advance_transferred _ a))⟩

/-- Settles O33: after its two reads and its flags `mul` stores two bytes, each store with its own answer. -/
theorem mulWritesProductBytes : Obligations.MulWritesProductBytes := by
  refine ⟨fun f1 f2 x16 => (decode_cw _ _ _ _).trans rfl, fun s f p hp hf => ?_⟩
  have hexec : exec .mul s = .next (s.afterReads [s.cfg.addrAcc, s.cfg.addrB]
      (f.storedTwice s.cfg.mulLoAddr (BitVec.ofNat 8 (p % 256)) s.cfg.mulHiAddr (BitVec.ofNat 8 (p / 256)))) := by
    rw [hf, hp, exec_mul_next]
  have hlo : f.memAccepts s.cfg.mulLoAddr = s.memAccepts s.cfg.mulLoAddr := by rw [hf]; rfl
  have hhi : ∀ v, (f.wrote s.cfg.mulLoAddr v).memAccepts s.cfg.mulHiAddr = s.answered.memAccepts s.cfg.mulHiAddr :=
    fun v => by rw [hf]; rfl
  have hmem : f.mem = s.mem := by rw [hf]
  rw [hexec]
  refine ⟨fun hr ha hb => ?completed, fun hr ha => ?lowRefused, fun hr ha hb => ?highRefused, fun b hr => ?unread⟩
  case completed =>
    rw [State.afterReads_of_none hr, State.storedTwice_of_accepts _ _ _ (hlo.trans ha),
      State.stored_of_accepts _ ((hhi _).trans hb), ← hmem]
    exact ⟨_, rfl⟩
  case lowRefused =>
    rw [State.afterReads_of_none hr, State.storedTwice_of_refuses _ _ _ (hlo.trans ha)]
    exact ⟨_, rfl⟩
  case highRefused =>
    rw [State.afterReads_of_none hr, State.storedTwice_of_accepts _ _ _ (hlo.trans ha),
      State.stored_of_refuses _ ((hhi _).trans hb), ← hmem]
    exact ⟨_, rfl⟩
  case unread => rw [State.afterReads_of_some hr]

/-! ### What each command leaves unchanged -/

/-- Bytes other than the one at `a`, the bits and the dispatcher's target are the same. -/
structure State.StoresAt (a : Byte) (s t : State) : Prop where
  bytes : ∀ b, b ≠ a → t.mem.read b = s.mem.read b
  bits : t.bits = s.bits
  target : t.target = s.target

theorem State.storesAt_stored (s : State) (psw : Psw) (a v : Byte) :
    s.StoresAt a (State.stored { s with psw := psw } a v) :=
  ⟨fun _ hb => stored_read_of_ne _ v hb, stored_bits _ a v, stored_target _ a v⟩

theorem State.storesAt_raised (s : State) (a : Byte) (st : Status) (n : Half) : s.StoresAt a (s.raised st n) :=
  ⟨fun _ _ => rfl, rfl, rfl⟩

/-- What a command leaves unchanged that may store at the address `f` makes of its destination's, when that resolves,
and writes PSW and the status port. -/
structure State.DstFrame (s : State) (d : Dst) (f : Byte → Byte) (t : State) : Prop where
  resolved : ∀ ea u, (resolveDst d).run s = .ok ea u → ∀ b, b ≠ f ea → t.mem.read b = s.mem.read b
  unresolved : ∀ e u, (resolveDst d).run s = .error e u → ∀ b, t.mem.read b = s.mem.read b
  bits : t.bits = s.bits
  target : t.target = s.target
  elsewhere : s.sameElsewhere t

theorem resolveDst_eq_error {s t : State} {d : Dst} {e : Failure} (h : (resolveDst d).run s = .error e t) :
    ∃ b, s.firstUnserved (s.dstReads d) = some b := by
  rw [resolveDst_eq] at h
  cases hu : s.firstUnserved (s.dstReads d) with
  | none => rw [hu] at h; cases h
  | some b => exact ⟨b, rfl⟩

/-- A command whose first reads are its destination's stores nothing when these fail. -/
theorem dstFrame_of_exec {i : Instr} {d : Dst} {f : Byte → Byte} {s t u : State} {reads : List Byte}
    (hexec : exec i s = .next (s.afterReads reads u)) (hreads : s.dstReads d <+: reads)
    (hu : s.StoresAt (f (s.dstAddr d)) u) (h : exec i s = .next t) : s.DstFrame d f t := by
  obtain rfl : s.afterReads reads u = t := Host.Outcome.next.inj (hexec.symm.trans h)
  obtain ⟨hbytes, hbits, htarget⟩ : s.StoresAt (f (s.dstAddr d)) (s.afterReads reads u) :=
    State.afterReads_induction reads (s.storesAt_raised _ _) hu
  refine ⟨fun ea v hea => ?resolved, fun e v he b => ?unresolved, hbits, htarget, exec_sameElsewhere h⟩
  case resolved =>
    obtain ⟨-, rfl, -⟩ := resolveDst_eq_ok hea
    exact hbytes
  case unresolved =>
    obtain ⟨c, hc⟩ := resolveDst_eq_error he
    rw [State.afterReads_of_some (hreads.find?_eq_some hc)]
    rfl

/-- A command that ends with PSW as it was, read failures included. -/
theorem psw_eq_of_exec {i : Instr} {s t u : State} {reads : List Byte}
    (hexec : exec i s = .next (s.afterReads reads u)) (hu : u.psw = s.psw) (h : exec i s = .next t) :
    t.psw = s.psw := by
  obtain rfl : s.afterReads reads u = t := Host.Outcome.next.inj (hexec.symm.trans h)
  exact State.afterReads_induction (P := fun t => t.psw = s.psw) reads (fun _ => rfl) hu

/-- The logic commands write P and OV only. -/
theorem cy_ac_eq_of_exec {i : Instr} {s t : State} {reads : List Byte} {r a v : Byte}
    (hexec : exec i s = .next (s.afterReads reads (State.stored { s with psw := logicFlagsOf r s.psw } a v)))
    (h : exec i s = .next t) : t.psw.cy = s.psw.cy ∧ t.psw.ac = s.psw.ac := by
  obtain rfl := Host.Outcome.next.inj (hexec.symm.trans h)
  refine State.afterReads_induction (P := fun t => t.psw.cy = s.psw.cy ∧ t.psw.ac = s.psw.ac) reads
    (fun _ => ⟨rfl, rfl⟩) ?_
  rw [State.stored_psw]
  exact ⟨rfl, rfl⟩

theorem dstReads_isPrefix_operands (s : State) (d : Dst) (v : Src) :
    s.dstReads d <+: s.dstReads d ++ s.srcReads v ++ [s.dstAddr d] := by
  rw [List.append_assoc]; exact List.prefix_append _ _

/-- Settles O53: each of the five stores at its destination's address or ends in a failure before. -/
theorem twoOperandFrame : Obligations.TwoOperandFrame := by
  intro i d v s t hi h
  have hframe : s.DstFrame d id t := by
    rcases hi with rfl | rfl | rfl | rfl | rfl
    · exact dstFrame_of_exec (exec_mov_next d v s) (List.prefix_append _ _) (s.storesAt_stored s.psw _ _) h
    · exact dstFrame_of_exec (exec_add_next d v s) (dstReads_isPrefix_operands s d v) (s.storesAt_stored _ _ _) h
    · exact dstFrame_of_exec (exec_subb_next d v s) (dstReads_isPrefix_operands s d v) (s.storesAt_stored _ _ _) h
    · exact dstFrame_of_exec (exec_anl_next d v s) (dstReads_isPrefix_operands s d v) (s.storesAt_stored _ _ _) h
    · exact dstFrame_of_exec (exec_orl_next d v s) (dstReads_isPrefix_operands s d v) (s.storesAt_stored _ _ _) h
  refine ⟨hframe.resolved, hframe.unresolved, hframe.bits, hframe.target, hframe.elsewhere, fun hmov => ?mov,
    fun hlogic => ?logic⟩
  case mov =>
    subst hmov
    exact psw_eq_of_exec (exec_mov_next d v s) (s.stored_psw _ _) h
  case logic =>
    rcases hlogic with rfl | rfl
    · exact cy_ac_eq_of_exec (exec_anl_next d v s) h
    · exact cy_ac_eq_of_exec (exec_orl_next d v s) h

/-- A command that resolves and reads one operand, and stores without writing PSW. -/
theorem oneOperand_frame {i : Instr} {d : Dst} {f : Byte → Byte} {s t u : State}
    (hexec : exec i s = .next (s.afterReads (s.dstReads d ++ [s.dstAddr d]) u))
    (hu : s.StoresAt (f (s.dstAddr d)) u) (hpsw : u.psw = s.psw) (h : exec i s = .next t) :
    s.DstFrame d f t ∧ t.psw = s.psw :=
  ⟨dstFrame_of_exec hexec (List.prefix_append _ _) hu h, psw_eq_of_exec hexec hpsw h⟩

theorem da_frame {d : Dst} {s t : State} (h : exec (.da d) s = .next t) :
    s.DstFrame d id t ∧ t.psw = s.psw := by
  refine oneOperand_frame (exec_da_next d s) ?_ ?_ h
  · split
    · exact s.storesAt_raised _ _ _
    · exact s.storesAt_stored s.psw _ _
  · split
    · rfl
    · exact s.stored_psw _ _

/-- Settles O54: each of the three stores at its operand's address or ends in a failure before. -/
theorem oneOperandFrame : Obligations.OneOperandFrame := by
  intro i d s t hi h
  obtain ⟨hframe, hpsw⟩ : s.DstFrame d id t ∧ t.psw = s.psw := by
    rcases hi with rfl | rfl | rfl
    · exact oneOperand_frame (exec_inc_next d s) (s.storesAt_stored s.psw _ _) (s.stored_psw _ _) h
    · exact oneOperand_frame (exec_dec_next d s) (s.storesAt_stored s.psw _ _) (s.stored_psw _ _) h
    · exact da_frame h
  exact ⟨hframe.resolved, hframe.unresolved, hpsw, hframe.bits, hframe.target, hframe.elsewhere⟩

/-- Settles O55: both store at the rotate target or end in a failure before. -/
theorem rotateFrame : Obligations.RotateFrame := by
  intro i d s t hi h
  obtain ⟨hframe, hpsw⟩ : s.DstFrame d (rotateTarget s.cfg) t ∧ t.psw = s.psw := by
    rcases hi with rfl | rfl
    · exact oneOperand_frame (exec_rl_next d s) (s.storesAt_stored s.psw _ _) (s.stored_psw _ _) h
    · exact oneOperand_frame (exec_rr_next d s) (s.storesAt_stored s.psw _ _) (s.stored_psw _ _) h
  exact ⟨hframe.resolved, hframe.unresolved, hpsw, hframe.bits, hframe.target, hframe.elsewhere⟩

/-- Settles O56: `mul` stores at its two product addresses, and its other clauses hold of every command or by its row of
R126. -/
theorem mulFrame : Obligations.MulFrame := by
  intro s t h
  have hkept := exec_flagsKept h
  have ht := Host.Outcome.next.inj ((exec_mul_next s).symm.trans h)
  refine ⟨fun b hlo hhi => ?bytes, hkept.ac rfl, hkept.p rfl, exec_sameBits rfl h, ?target, exec_sameElsewhere h⟩
  case bytes =>
    rw [← ht]
    exact State.afterReads_induction (P := fun t => t.mem.read b = s.mem.read b) _ (fun _ => rfl)
      (State.storedTwice_read_of_ne _ _ _ hlo hhi)
  case target =>
    rw [← ht]
    exact State.afterReads_induction (P := fun t => t.target = s.target) _ (fun _ => rfl)
      (State.storedTwice_target _ _ _ _ _)

end Sys2Proof.Machine
end

section
/-! The bit commands (42_bit.md R200 to R203): the next state each gives, in every case, and what it leaves
unchanged. -/

namespace Sys2Proof.Machine

/-! ### Encodings (R81, R83, R84) -/

theorem decodesBit {op : Byte} {m : Mnemonic} {f : Byte → Instr} (hm : Mnemonic.ofOpcode? op = some m)
    (hbb : m.format ≠ .bb) (hf : ∀ c : Command, c.build? m = c.bitOperand?.map f) : DecodesBit op f :=
  fun _ _ _ => decode_cw_of_build? hm hbb ((hf _).trans rfl)

/-! ### How a command that stores a bit ends -/

/-- The next state of a command whose last statements store one bit and finish. -/
def State.storedBit (s : State) (b : Byte) (x : Bool) : State :=
  if s.bitAccepts b = true then (s.wroteBit b x).completed else s.answered.raised .bitWriteFail (zext16 b)

theorem State.storedBit_of_accepts {s : State} {b : Byte} (x : Bool) (h : s.bitAccepts b = true) :
    s.storedBit b x = (s.wroteBit b x).completed := if_pos h

theorem State.storedBit_of_refuses {s : State} {b : Byte} (x : Bool) (h : s.bitAccepts b = false) :
    s.storedBit b x = s.answered.raised .bitWriteFail (zext16 b) := if_neg (by simp [h])

@[simp] theorem State.storedBit_target (s : State) (b : Byte) (x : Bool) : (s.storedBit b x).target = s.target := by
  unfold storedBit; split <;> rfl

theorem State.storedBit_read_of_ne (s : State) {b c : Byte} (x : Bool) (h : c ≠ b) :
    (s.storedBit b x).bits.read c = s.bits.read c := by
  unfold storedBit
  split
  · exact BitMemory.read_write_of_ne s.bits x h
  · rfl

theorem runCommand_storeBit (b : Byte) (x : Bool) (s : State) :
    runCommand (bitWrite b x >>= fun _ => finish) s = .next (s.storedBit b x) := by
  cases h : s.bitAccepts b with
  | true =>
    rw [State.storedBit_of_accepts x h]
    exact runCommand_ok (Cmd.run_bind_ok (bitWrite_ok x h))
  | false =>
    rw [State.storedBit_of_refuses x h]
    exact runCommand_error (Cmd.run_bind_error (bitWrite_fail x h))

/-! ### The next state of each command, in every case -/

theorem exec_setb_next (b : Byte) (s : State) : exec (.setb b) s = .next (s.storedBit b true) :=
  runCommand_storeBit b true s

theorem exec_clr_next (b : Byte) (s : State) : exec (.clr b) s = .next (s.storedBit b false) :=
  runCommand_storeBit b false s

theorem exec_cpl_of_serves {b : Byte} {s : State} (h : s.bitServes b = true) :
    exec (.cpl b) s = .next (s.storedBit b (!s.bits.read b)) :=
  (runCommand_congr (Cmd.run_bind_ok (bitRead_ok h))).trans (runCommand_storeBit b _ s)

theorem exec_cpl_of_unserved {b : Byte} {s : State} (h : s.bitServes b = false) :
    exec (.cpl b) s = .next (s.raised .bitReadFail (zext16 b)) :=
  runCommand_error (Cmd.run_bind_error (bitRead_fail h))

/-- What a bit command can do: end with its bit stored, or refused, or without its bit read. -/
theorem exec_bit_eq_next {i : Instr} {b : Byte} {s t : State} (hi : i = .setb b ∨ i = .clr b ∨ i = .cpl b)
    (h : exec i s = .next t) : (∃ x, t = s.storedBit b x) ∨ t = s.raised .bitReadFail (zext16 b) := by
  rcases hi with rfl | rfl | rfl
  · exact .inl ⟨true, Host.Outcome.next.inj (h.symm.trans (exec_setb_next b s))⟩
  · exact .inl ⟨false, Host.Outcome.next.inj (h.symm.trans (exec_clr_next b s))⟩
  · cases hs : s.bitServes b with
    | true => exact .inl ⟨_, Host.Outcome.next.inj (h.symm.trans (exec_cpl_of_serves hs))⟩
    | false => exact .inr (Host.Outcome.next.inj (h.symm.trans (exec_cpl_of_unserved hs)))

/-! ### What each command does (R201 to R203) -/

/-- The two ways a command ends whose last statements store one bit: completed, the write refused. -/
theorem storeBitOutcomes {o : Host.Outcome State Fault Refusal} {s : State} {b : Byte} {x : Bool}
    (ho : o = .next (s.storedBit b x)) :
    (s.bitAccepts b = true → ∃ q, o = .next (State.completed { s with answers := q, bits := s.bits.write b x })) ∧
    (s.bitAccepts b = false → ∃ q, o = .next (State.raised { s with answers := q } .bitWriteFail (zext16 b))) := by
  subst ho
  refine ⟨fun ha => ?completed, fun ha => ?refused⟩
  case completed => rw [State.storedBit_of_accepts x ha]; exact ⟨_, rfl⟩
  case refused => rw [State.storedBit_of_refuses x ha]; exact ⟨_, rfl⟩

/-- Settles O34: `setb` stores 1 and has no read. -/
theorem setbSetsBit : Obligations.SetbSetsBit :=
  ⟨decodesBit (m := .setb) rfl nofun fun _ => rfl, fun b s => storeBitOutcomes (exec_setb_next b s)⟩

/-- Settles O35: `clr` stores 0 and has no read. -/
theorem clrClearsBit : Obligations.ClrClearsBit :=
  ⟨decodesBit (m := .clr) rfl nofun fun _ => rfl, fun b s => storeBitOutcomes (exec_clr_next b s)⟩

/-- A `cpl` that completed had its read served and its write accepted: it stored the complement. -/
theorem bits_of_cpl_ok {b : Byte} {s t : State} (h : exec (.cpl b) s = .next t) (ht : t.status = .ok) :
    t.bits = s.bits.write b (!s.bits.read b) := by
  cases hs : s.bitServes b with
  | false =>
    obtain rfl := Host.Outcome.next.inj (h.symm.trans (exec_cpl_of_unserved hs))
    cases ht
  | true =>
    obtain rfl := Host.Outcome.next.inj (h.symm.trans (exec_cpl_of_serves hs))
    cases ha : s.bitAccepts b with
    | true => rw [State.storedBit_of_accepts _ ha]; rfl
    | false => rw [State.storedBit_of_refuses _ ha] at ht; cases ht

/-- Storing at a bit address and then its old bit again leaves every bit as it was. -/
theorem BitMemory.read_write_restore (m : BitMemory) (b : Byte) (x : Bool) (c : Byte) :
    ((m.write b x).write b (m.read b)).read c = m.read c := by
  by_cases h : c = b
  · rw [h, BitMemory.read_write_self]
  · rw [BitMemory.read_write_of_ne _ _ h, BitMemory.read_write_of_ne _ _ h]

/-- Settles O36: `cpl` stores the complement of the bit it read, and the complement of that is the old bit. -/
theorem cplComplementsBit : Obligations.CplComplementsBit := by
  refine ⟨decodesBit (m := .cpl) rfl nofun fun _ => rfl, fun b s =>
    ⟨fun hs => ?completed, fun hs => ?refused, exec_cpl_of_unserved, fun t u ht hu htok huok c => ?restored⟩⟩
  case completed => exact (storeBitOutcomes (exec_cpl_of_serves hs)).left
  case refused => exact (storeBitOutcomes (exec_cpl_of_serves hs)).right
  case restored =>
    rw [bits_of_cpl_ok hu huok, bits_of_cpl_ok ht htok, BitMemory.read_write_self, Bool.not_not]
    exact BitMemory.read_write_restore s.bits b _ c

/-! ### What the bit commands leave unchanged -/

theorem storesBit_of_bitCommand {i : Instr} {b : Byte} (hi : i = .setb b ∨ i = .clr b ∨ i = .cpl b) :
    storesBit i.mnemonic = true := by
  rcases hi with rfl | rfl | rfl <;> rfl

/-- Settles O57: a bit command stores at its own address or nowhere; that it leaves the bytes and the flags is said of
every command that stores a bit, and that it leaves everything else of every command. -/
theorem bitCommandFrame : Obligations.BitCommandFrame := by
  intro i b s t hi h
  obtain ⟨hmem, hpsw⟩ := exec_sameBytesAndFlags (storesBit_of_bitCommand hi) h
  obtain ⟨hbits, htarget⟩ : (∀ c, c ≠ b → t.bits.read c = s.bits.read c) ∧ t.target = s.target := by
    rcases exec_bit_eq_next hi h with ⟨x, rfl⟩ | rfl
    · exact ⟨fun _ hc => s.storedBit_read_of_ne x hc, s.storedBit_target b x⟩
    · exact ⟨fun _ _ => rfl, rfl⟩
  exact ⟨hbits, fun a => by rw [hmem], hpsw, htarget, exec_sameElsewhere h⟩

end Sys2Proof.Machine
end

section
/-! The conditional branch commands (43_control.md R220 to R229): the next state each gives, in every case, and what it
leaves unchanged. -/

namespace Sys2Proof.Machine

/-! ### Encodings (R81, R83, R84) -/

/-- Format DJ with an operand. -/
theorem decode_djnz (d : Dst) (f2 : Byte) (x16 : Half) :
    decode (cw (headWith 0x24 d.mode .none) d.field f2 x16) = .ok (.djnz d x16) :=
  decode_cw_of_build? (m := .djnz) rfl nofun (by cases d <;> rfl)

/-- Format DJ without an operand. -/
theorem decode_djnzAcc : DecodesX16 0x24 .djnzAcc := fun _ _ _ => decode_cw_of_build? (m := .djnz) rfl nofun rfl

/-- Format CJ. -/
theorem decode_cjne (d : Dst) (v : Src) (x16 : Half) :
    decode (cw (headWith 0x25 d.mode v.mode) d.field v.field x16) = .ok (.cjne d v x16) :=
  decode_cw_of_build? (m := .cjne) rfl nofun (by rw [Command.build?, twoOperands?_of_operands]; rfl)

/-! ### How a command that branches ends -/

theorem State.branched_unresolved {s : State} {l : Half} (h : s.labels.address? l = none) :
    s.branched true l = s.raised .jumpFail l := by
  simp [State.branched, h]

/-- All that a branch can do (R220). -/
theorem State.branched_cases (s : State) (c : Bool) (l : Half) :
    s.branched c l = s.completed ∨ (∃ t, s.branched c l = s.transferred t) ∨
      s.branched c l = s.raised .jumpFail l := by
  cases c with
  | false => exact .inl rfl
  | true =>
    cases h : s.labels.address? l with
    | none => exact .inr (.inr (State.branched_unresolved h))
    | some t => exact .inr (.inl ⟨t, State.branched_true h⟩)

/-- The next state of a command whose last statements store the byte at `a` minus one there and branch unless that is
zero (R225): the store comes first, and a refused one ends the command. -/
def State.decremented (s : State) (a : Byte) (l : Half) : State :=
  if s.memAccepts a = true then (s.wrote a (s.mem.read a - 1)).branched (s.mem.read a != 1) l
  else s.answered.raised .memWriteFail (zext16 a)

theorem State.decremented_of_accepts {s : State} {a : Byte} (l : Half) (h : s.memAccepts a = true) :
    s.decremented a l = (s.wrote a (s.mem.read a - 1)).branched (s.mem.read a != 1) l := if_pos h

theorem State.decremented_of_refuses {s : State} {a : Byte} (l : Half) (h : s.memAccepts a = false) :
    s.decremented a l = s.answered.raised .memWriteFail (zext16 a) := if_neg (by simp [h])

/-- The result is zero exactly when the byte was one. -/
theorem sub_one_bne_zero (x : Byte) : (x - 1 != 0) = (x != 1) := by
  rw [Bool.eq_iff_iff, bne_iff_ne, bne_iff_ne, ne_eq, ne_eq, sub_eq_zero]

/-- What `djnz` does once its byte is read. -/
theorem runCommand_decrement (a : Byte) (l : Half) (s : State) :
    runCommand (compute (s.mem.read a) 1 .sub .none >>= fun r => memWrite a r >>= fun _ => branch (r != 0) l) s =
      .next (s.decremented a l) := by
  rw [runCommand_compute, computePsw_none, computeResult_sub, sub_one_bne_zero]
  cases h : s.memAccepts a with
  | true =>
    rw [State.decremented_of_accepts l h, ← runCommand_branch]
    exact runCommand_congr (Cmd.run_bind_ok (memWrite_ok _ h))
  | false =>
    rw [State.decremented_of_refuses l h]
    exact runCommand_error (Cmd.run_bind_error (memWrite_fail _ h))

/-! ### The next state of each command, in every case -/

/-- `jz` and `jnz`: a branch on the accumulator. -/
theorem runCommand_branchOnAcc (cond : Byte → Bool) (l : Half) (s : State) :
    runCommand (getConfig >>= fun cfg => memRead cfg.addrAcc >>= fun a => branch (cond a) l) s =
      .next (s.afterReads [s.cfg.addrAcc] (s.branched (cond s.acc) l)) :=
  (runCommand_getConfig _ s).trans (runCommand_memRead_next _ _ (runCommand_branch _ l s))

theorem exec_jz_next (l : Half) (s : State) :
    exec (.jz l) s = .next (s.afterReads [s.cfg.addrAcc] (s.branched (s.acc == 0) l)) :=
  runCommand_branchOnAcc (· == 0) l s

theorem exec_jnz_next (l : Half) (s : State) :
    exec (.jnz l) s = .next (s.afterReads [s.cfg.addrAcc] (s.branched (s.acc != 0) l)) :=
  runCommand_branchOnAcc (· != 0) l s

/-- No port is read before the condition (R223). -/
theorem exec_jc_next (l : Half) (s : State) : exec (.jc l) s = .next (s.afterReads [] (s.branched s.psw.cy l)) :=
  exec_jc l s

/-- No port is read before the condition (R224). -/
theorem exec_jnc_next (l : Half) (s : State) :
    exec (.jnc l) s = .next (s.afterReads [] (s.branched (!s.psw.cy) l)) :=
  (runCommand_congr (Cmd.run_bind_ok (run_getPsw s))).trans (runCommand_branch (!s.psw.cy) l s)

theorem exec_djnz_next (d : Dst) (l : Half) (s : State) :
    exec (.djnz d l) s = .next (s.afterReads (s.dstReads d ++ [s.dstAddr d]) (s.decremented (s.dstAddr d) l)) := by
  rw [exec_djnz]
  exact runCommand_operand_next d _ (runCommand_decrement (s.dstAddr d) l s)

theorem exec_djnzAcc_next (l : Half) (s : State) :
    exec (.djnzAcc l) s = .next (s.afterReads [s.cfg.addrAcc] (s.decremented s.cfg.addrAcc l)) :=
  (runCommand_getConfig _ s).trans (runCommand_memRead_next _ _ (runCommand_decrement s.cfg.addrAcc l s))

/-- CY is written before the branch, in both cases as the comparison says (R227). -/
theorem exec_cjne_next (d : Dst) (v : Src) (l : Half) (s : State) :
    exec (.cjne d v l) s = .next (s.afterReads (s.dstReads d ++ s.srcReads v ++ [s.dstAddr d])
      (State.branched { s with psw := { s.psw with cy := decide ((s.dstValue d).toNat < (s.srcValue v).toNat) } }
        (s.dstValue d != s.srcValue v) l)) := by
  rw [exec_cjne]
  refine runCommand_operands_next d v _ ?_
  rw [← runCommand_branch]
  split
  · next hne =>
    rw [bne_iff_ne.mpr hne]
    exact runCommand_congr (Cmd.run_bind_ok (run_writeCy _ s))
  · next heq =>
    rw [Decidable.not_not.mp heq, bne_self_eq_false, decide_eq_false (Nat.lt_irrefl _)]
    exact runCommand_congr (Cmd.run_bind_ok (run_writeCy false s))

/-! ### What each command does (R221 to R229) -/

@[simp] theorem State.firstUnserved_singleton_eq_none (s : State) (a : Byte) :
    s.firstUnserved [a] = none ↔ s.memServes a = true := by
  cases h : s.memServes a <;> simp [firstUnserved_cons, h]

@[simp] theorem State.firstUnserved_singleton_eq_some (s : State) (a b : Byte) :
    s.firstUnserved [a] = some b ↔ s.memServes a = false ∧ a = b := by
  cases h : s.memServes a <;> simp [firstUnserved_cons, h]

/-- The four ways a command ends whose last statement is a branch: a transfer, a label that does not resolve, no
transfer, a read failed. -/
theorem branchOutcomes {o : Host.Outcome State Fault Refusal} {s f : State} {reads : List Byte} {c : Bool} {l : Half}
    (ho : o = .next (s.afterReads reads (f.branched c l))) (hf : f.labels = s.labels) :
    (s.firstUnserved reads = none → c = true → ∀ t, s.labels.address? l = some t → o = .next (f.transferred t)) ∧
    (s.firstUnserved reads = none → c = true → s.labels.address? l = none → o = .next (f.raised .jumpFail l)) ∧
    (s.firstUnserved reads = none → c = false → o = .next f.completed) ∧
    (∀ b, s.firstUnserved reads = some b → o = .next (s.raised .memReadFail (zext16 b))) := by
  subst ho
  rw [← hf]
  refine ⟨fun hr hc t ht => ?taken, fun hr hc ht => ?unresolved, fun hr hc => ?notTaken, fun b hr => ?unread⟩
  case taken => rw [State.afterReads_of_none hr, hc, State.branched_true ht]
  case unresolved => rw [State.afterReads_of_none hr, hc, State.branched_unresolved ht]
  case notTaken => rw [State.afterReads_of_none hr, hc, State.branched_false]
  case unread => rw [State.afterReads_of_some hr]

/-- Settles O37: `jz` branches on A = 0, once A is read. -/
theorem jzJumpsWhenAccumulatorZero : Obligations.JzJumpsWhenAccumulatorZero :=
  ⟨decodesX16 (m := .jz) rfl nofun fun _ => rfl, fun l s => by simpa using branchOutcomes (exec_jz_next l s) rfl⟩

/-- Settles O38: `jnz` branches on A ≠ 0, once A is read. -/
theorem jnzJumpsWhenAccumulatorNonzero : Obligations.JnzJumpsWhenAccumulatorNonzero :=
  ⟨decodesX16 (m := .jnz) rfl nofun fun _ => rfl, fun l s => by simpa using branchOutcomes (exec_jnz_next l s) rfl⟩

/-- Settles O39: `jc` branches on CY and reads no byte. -/
theorem jcJumpsWhenCarrySet : Obligations.JcJumpsWhenCarrySet :=
  ⟨decodesX16 (m := .jc) rfl nofun fun _ => rfl, fun l s => by simpa using branchOutcomes (exec_jc_next l s) rfl⟩

/-- Settles O40: `jnc` branches on the complement of CY and reads no byte. -/
theorem jncJumpsWhenCarryClear : Obligations.JncJumpsWhenCarryClear :=
  ⟨decodesX16 (m := .jnc) rfl nofun fun _ => rfl, fun l s => by simpa using branchOutcomes (exec_jnc_next l s) rfl⟩

/-- The five ways a `djnz` ends: its byte stored and then the three of a branch, the write refused, a read failed. -/
theorem decrementOutcomes {o : Host.Outcome State Fault Refusal} {s : State} {reads : List Byte} {a r : Byte} {l : Half}
    (ho : o = .next (s.afterReads reads (s.decremented a l)))
    (hr : r = BitVec.ofNat 8 (((s.mem.read a).toNat + 255) % 256)) :
    (s.firstUnserved reads = none → s.memAccepts a = true → s.mem.read a ≠ 1 → ∀ t, s.labels.address? l = some t →
      ∃ q, o = .next (State.transferred { s with answers := q, mem := s.mem.write a r } t)) ∧
    (s.firstUnserved reads = none → s.memAccepts a = true → s.mem.read a ≠ 1 → s.labels.address? l = none →
      ∃ q, o = .next (State.raised { s with answers := q, mem := s.mem.write a r } .jumpFail l)) ∧
    (s.firstUnserved reads = none → s.memAccepts a = true → s.mem.read a = 1 →
      ∃ q, o = .next (State.completed { s with answers := q, mem := s.mem.write a 0 })) ∧
    (s.firstUnserved reads = none → s.memAccepts a = false →
      ∃ q, o = .next (State.raised { s with answers := q } .memWriteFail (zext16 a))) ∧
    (∀ b, s.firstUnserved reads = some b → o = .next (s.raised .memReadFail (zext16 b))) := by
  rw [← byte_sub_one] at hr
  subst hr
  have hbranch : s.memAccepts a = true →
      o = .next (s.afterReads reads ((s.wrote a (s.mem.read a - 1)).branched (s.mem.read a != 1) l)) :=
    fun ha => by rw [ho, State.decremented_of_accepts l ha]
  refine ⟨fun hr ha hx t ht => ?taken, fun hr ha hx ht => ?unresolved, fun hr ha hx => ?notTaken,
    fun hr ha => ?refused, fun b hr => ?unread⟩
  case taken =>
    obtain ⟨htaken, -, -, -⟩ := branchOutcomes (hbranch ha) rfl
    exact ⟨_, htaken hr (bne_iff_ne.mpr hx) t ht⟩
  case unresolved =>
    obtain ⟨-, hunresolved, -, -⟩ := branchOutcomes (hbranch ha) rfl
    exact ⟨_, hunresolved hr (bne_iff_ne.mpr hx) ht⟩
  case notTaken =>
    rw [hx] at hbranch
    obtain ⟨-, -, hnotTaken, -⟩ := branchOutcomes (hbranch ha) rfl
    exact ⟨_, hnotTaken hr rfl⟩
  case refused =>
    rw [ho, State.afterReads_of_none hr, State.decremented_of_refuses l ha]
    exact ⟨_, rfl⟩
  case unread => rw [ho, State.afterReads_of_some hr]

/-- Settles O41: once its byte is read, `djnz` stores it minus one and branches. -/
theorem djnzDecrementsAndJumps : Obligations.DjnzDecrementsAndJumps :=
  ⟨decode_djnz, fun d l s _ hr => decrementOutcomes (exec_djnz_next d l s) hr⟩

/-- Settles O42: once A is read, `djnz` stores it minus one and branches. -/
theorem djnzAccDecrementsAndJumps : Obligations.DjnzAccDecrementsAndJumps :=
  ⟨decode_djnzAcc, fun l s _ hr => decrementOutcomes (exec_djnzAcc_next l s) hr⟩

/-- Settles O43: CY is in the state from which `cjne` branches. -/
theorem cjneComparesAndJumps : Obligations.CjneComparesAndJumps := by
  refine ⟨decode_cjne, fun d v l s f hf => ?_⟩
  subst hf
  obtain ⟨htaken, hunresolved, hnotTaken, hunread⟩ := branchOutcomes (exec_cjne_next d v l s) rfl
  refine ⟨fun hr hne => htaken hr (bne_iff_ne.mpr hne), fun hr hne => hunresolved hr (bne_iff_ne.mpr hne),
    fun hr heq => ⟨hnotTaken hr (by rw [heq, bne_self_eq_false]), ?_⟩, hunread⟩
  rw [heq]
  exact decide_eq_false (Nat.lt_irrefl _)

theorem exec_jb (s : State) : exec .jb s = .next (s.raised .notImplemented 0x0026) := rfl

theorem exec_jnb (s : State) : exec .jnb s = .next (s.raised .notImplemented 0x0027) := rfl

/-- Settles O44: the decoder takes `jb` and `jnb` from OP alone, and all they do is raise. -/
theorem jbJnbRaiseNotImplemented : Obligations.JbJnbRaiseNotImplemented := fun s =>
  ⟨exec_jb s, exec_jnb s,
    fun _ hop => ⟨decode_of_op_jb hop, (present_of_decode_ok (decode_of_op_jb hop) s).trans (exec_jb s)⟩,
    fun _ hop => ⟨decode_of_op_jnb hop, (present_of_decode_ok (decode_of_op_jnb hop) s).trans (exec_jnb s)⟩⟩

/-! ### What each command leaves unchanged -/

/-- The bytes, the bits and PSW are the same, and the dispatcher's target too without a transfer. -/
structure State.OnlyTransfers (s t : State) : Prop where
  mem : t.mem = s.mem
  bits : t.bits = s.bits
  psw : t.psw = s.psw
  target : t.xfer = false → t.target = s.target

theorem State.onlyTransfers_raised (s : State) (st : Status) (n : Half) : s.OnlyTransfers (s.raised st n) :=
  ⟨rfl, rfl, rfl, fun _ => rfl⟩

theorem State.onlyTransfers_transferred (s : State) (a : Half) : s.OnlyTransfers (s.transferred a) :=
  ⟨rfl, rfl, rfl, nofun⟩

theorem State.onlyTransfers_branched (s : State) (c : Bool) (l : Half) : s.OnlyTransfers (s.branched c l) := by
  rcases s.branched_cases c l with h | ⟨a, h⟩ | h
  · rw [h]; exact ⟨rfl, rfl, rfl, fun _ => rfl⟩
  · rw [h]; exact s.onlyTransfers_transferred a
  · rw [h]; exact s.onlyTransfers_raised _ l

/-- What holds of every failing read and of the end without one holds of the next state. -/
theorem next_induction {P : State → Prop} {o : Host.Outcome State Fault Refusal} {s t u : State} {reads : List Byte}
    (ho : o = .next (s.afterReads reads u)) (h : o = .next t) (hfail : ∀ n, P (s.raised .memReadFail n)) (hu : P u) :
    P t := by
  obtain rfl : s.afterReads reads u = t := Host.Outcome.next.inj (ho.symm.trans h)
  exact State.afterReads_induction reads hfail hu

theorem onlyTransfers_of_branch {o : Host.Outcome State Fault Refusal} {s t : State} {reads : List Byte} {c : Bool}
    {l : Half} (ho : o = .next (s.afterReads reads (s.branched c l))) (h : o = .next t) : s.OnlyTransfers t :=
  next_induction ho h (s.onlyTransfers_raised _) (s.onlyTransfers_branched c l)

theorem onlyTransfers_of_org {a : Half} {s t : State} (h : exec (.org a) s = .next t) : s.OnlyTransfers t := by
  cases ha : s.pcAccepts a with
  | true =>
    obtain rfl := Host.Outcome.next.inj ((exec_org_of_accepts ha).symm.trans h)
    exact ⟨rfl, rfl, rfl, nofun⟩
  | false =>
    obtain rfl := Host.Outcome.next.inj ((exec_org_of_refuses ha).symm.trans h)
    exact ⟨rfl, rfl, rfl, fun _ => rfl⟩

/-- Settles O58: each of the seven is a branch, one request of the program counter, or a failure. -/
theorem transferFrame : Obligations.TransferFrame := by
  intro i l s t hi h
  obtain ⟨hmem, hbits, hpsw, htarget⟩ : s.OnlyTransfers t := by
    rcases hi with rfl | rfl | rfl | rfl | rfl | rfl | rfl
    · exact onlyTransfers_of_org h
    · exact onlyTransfers_of_branch (exec_jz_next l s) h
    · exact onlyTransfers_of_branch (exec_jnz_next l s) h
    · exact onlyTransfers_of_branch (exec_jc_next l s) h
    · exact onlyTransfers_of_branch (exec_jnc_next l s) h
    · obtain rfl := Host.Outcome.next.inj ((exec_jb s).symm.trans h)
      exact s.onlyTransfers_raised _ _
    · obtain rfl := Host.Outcome.next.inj ((exec_jnb s).symm.trans h)
      exact s.onlyTransfers_raised _ _
  exact ⟨fun a => by rw [hmem], fun b => by rw [hbits], hpsw, exec_sameElsewhere h, htarget⟩

/-- Bytes other than the one at `a`, the bits and PSW are the same, and the dispatcher's target too without a
transfer. -/
structure State.StoresAtAndTransfers (a : Byte) (s t : State) : Prop where
  bytes : ∀ b, b ≠ a → t.mem.read b = s.mem.read b
  bits : t.bits = s.bits
  psw : t.psw = s.psw
  target : t.xfer = false → t.target = s.target

theorem State.storesAtAndTransfers_raised (s : State) (a : Byte) (st : Status) (n : Half) :
    s.StoresAtAndTransfers a (s.raised st n) :=
  ⟨fun _ _ => rfl, rfl, rfl, fun _ => rfl⟩

theorem State.storesAtAndTransfers_decremented (s : State) (a : Byte) (l : Half) :
    s.StoresAtAndTransfers a (s.decremented a l) := by
  cases h : s.memAccepts a with
  | true =>
    obtain ⟨hmem, hbits, hpsw, htarget⟩ :=
      (s.wrote a (s.mem.read a - 1)).onlyTransfers_branched (s.mem.read a != 1) l
    rw [decremented_of_accepts l h]
    exact ⟨fun b hb => by rw [hmem]; exact Memory.read_write_of_ne s.mem _ hb, hbits, hpsw, htarget⟩
  | false =>
    rw [decremented_of_refuses l h]
    exact ⟨fun _ _ => rfl, rfl, rfl, fun _ => rfl⟩

theorem storesAtAndTransfers_of_decrement {o : Host.Outcome State Fault Refusal} {s t : State} {reads : List Byte}
    {a : Byte} {l : Half} (ho : o = .next (s.afterReads reads (s.decremented a l))) (h : o = .next t) :
    s.StoresAtAndTransfers a t :=
  next_induction ho h (s.storesAtAndTransfers_raised a _) (s.storesAtAndTransfers_decremented a l)

/-- A `djnz` whose operand does not resolve stores nothing. -/
theorem djnz_mem_of_unresolved {d : Dst} {l : Half} {s t u : State} {e : Failure} (h : exec (.djnz d l) s = .next t)
    (he : (resolveDst d).run s = .error e u) : t.mem = s.mem := by
  obtain ⟨b, hb⟩ := resolveDst_eq_error he
  have hreads : s.firstUnserved (s.dstReads d ++ [s.dstAddr d]) = some b := by
    rw [State.firstUnserved_append, hb, Option.some_or]
  rw [exec_djnz_next, State.afterReads_of_some hreads] at h
  obtain rfl := Host.Outcome.next.inj h
  rfl

/-- All of what `cjne` changes but the target and the status port is CY. -/
theorem cjne_onlyTransfers_withCy {d : Dst} {v : Src} {l : Half} {s t : State} (h : exec (.cjne d v l) s = .next t) :
    ∃ x, State.OnlyTransfers { s with psw := { s.psw with cy := x } } t :=
  next_induction (P := fun t => ∃ x, State.OnlyTransfers { s with psw := { s.psw with cy := x } } t)
    (exec_cjne_next d v l s) h
    (fun n => ⟨s.psw.cy, s.onlyTransfers_raised _ n⟩)
    ⟨_, State.onlyTransfers_branched _ _ l⟩

/-- Settles O59: `djnz` stores at its operand's address or ends in a failure before, `cjne` writes CY, and both end in a
branch. -/
theorem loopAndCompareFrame : Obligations.LoopAndCompareFrame := by
  refine fun d v l s t => ⟨fun h => ?djnz, fun h => ?djnzAcc, fun h => ?cjne⟩
  case djnz =>
    obtain ⟨hbytes, hbits, hpsw, htarget⟩ := storesAtAndTransfers_of_decrement (exec_djnz_next d l s) h
    refine ⟨fun ea u hea => ?_, fun e u he b => by rw [djnz_mem_of_unresolved h he], hpsw, hbits,
      exec_sameElsewhere h, htarget⟩
    obtain ⟨-, rfl, -⟩ := resolveDst_eq_ok hea
    exact hbytes
  case djnzAcc =>
    obtain ⟨hbytes, hbits, hpsw, htarget⟩ := storesAtAndTransfers_of_decrement (exec_djnzAcc_next l s) h
    exact ⟨hbytes, hpsw, hbits, exec_sameElsewhere h, htarget⟩
  case cjne =>
    obtain ⟨x, hmem, hbits, hpsw, htarget⟩ := cjne_onlyTransfers_withCy h
    exact ⟨fun b => by rw [hmem], (congrArg Psw.ac hpsw :), (congrArg Psw.p hpsw :), (congrArg Psw.ov hpsw :), hbits,
      exec_sameElsewhere h, htarget⟩

end Sys2Proof.Machine
end

section
/-! How a command ends (60_exceptions.md R260 to R263): with OK, with or without a transfer, or with a failure of its
row of R261, which outside the commands R263 names leaves no effect. -/

namespace Sys2Proof.Machine

/-! ### The ends of a command -/

/-- `f` can be the state in which a command of mnemonic `m`, started in `s`, raises or makes its last request: the
command has noted no target, and outside the commands R263 names it has had no effect but used answers. -/
structure State.ReachedBefore (m : Mnemonic) (s f : State) : Prop where
  target : f.target = s.target
  noEffect : leavesPartialEffects m = false → ∃ q, f = { s with answers := q }

/-- The ends of a command of mnemonic `m` started in `s`: OK without a transfer, OK with one, or a failure of its row
of R261. -/
inductive State.EndsBy (m : Mnemonic) (s : State) : State → Prop
  | completed {f : State} (ht : f.target = s.target) : EndsBy m s f.completed
  | transferred (f : State) (a : Half) : EndsBy m s (f.transferred a)
  | raised {f : State} (hf : s.ReachedBefore m f) {st : Status} (hst : st ∈ possibleFailures m) (n : Half) :
      EndsBy m s (f.raised st n)

variable {m : Mnemonic} {s f : State}

theorem State.reachedBefore_self (m : Mnemonic) (s : State) : s.ReachedBefore m s := ⟨rfl, fun _ => ⟨_, rfl⟩⟩

theorem State.ReachedBefore.answered (hf : s.ReachedBefore m f) : s.ReachedBefore m f.answered where
  target := hf.target
  noEffect hm := by
    obtain ⟨q, rfl⟩ := hf.noEffect hm
    exact ⟨q.tail, rfl⟩

/-- The commands R263 names may have any effect before they raise, but note no target. -/
theorem State.reachedBefore_of_partialEffects (hm : leavesPartialEffects m = true) (ht : f.target = s.target) :
    s.ReachedBefore m f :=
  ⟨ht, fun h => nomatch hm.symm.trans h⟩

theorem State.reachedBefore_withPsw (hm : leavesPartialEffects m = true) (s : State) (p : Psw) :
    s.ReachedBefore m { s with psw := p } :=
  State.reachedBefore_of_partialEffects hm rfl

/-! ### The ends of the sequences a command ends with -/

theorem State.EndsBy.afterReads {t : State} (reads : List Byte) (hm : .memReadFail ∈ possibleFailures m)
    (ht : s.EndsBy m t) : s.EndsBy m (s.afterReads reads t) :=
  State.afterReads_induction reads (.raised (s.reachedBefore_self m) hm) ht

theorem State.ReachedBefore.endsBy_stored (hf : s.ReachedBefore m f) (hm : .memWriteFail ∈ possibleFailures m)
    (a v : Byte) : s.EndsBy m (f.stored a v) := by
  cases h : f.memAccepts a with
  | true => rw [State.stored_of_accepts v h]; exact .completed hf.target
  | false => rw [State.stored_of_refuses v h]; exact .raised hf.answered hm _

theorem State.ReachedBefore.endsBy_storedBit (hf : s.ReachedBefore m f) (hm : .bitWriteFail ∈ possibleFailures m)
    (b : Byte) (x : Bool) : s.EndsBy m (f.storedBit b x) := by
  cases h : f.bitAccepts b with
  | true => rw [State.storedBit_of_accepts x h]; exact .completed hf.target
  | false => rw [State.storedBit_of_refuses x h]; exact .raised hf.answered hm _

theorem State.ReachedBefore.endsBy_branched (hf : s.ReachedBefore m f) (hm : .jumpFail ∈ possibleFailures m)
    (c : Bool) (l : Half) : s.EndsBy m (f.branched c l) := by
  rcases f.branched_cases c l with h | ⟨a, h⟩ | h
  · rw [h]; exact .completed hf.target
  · rw [h]; exact .transferred f a
  · rw [h]; exact .raised hf hm l

/-- `mul` leaves partial effects: its first byte when its second is refused (R263). -/
theorem State.endsBy_storedTwice (s : State) (p : Psw) (a v b w : Byte) :
    s.EndsBy .mul (State.storedTwice { s with psw := p } a v b w) := by
  cases h : State.memAccepts { s with psw := p } a with
  | true =>
    rw [State.storedTwice_of_accepts v b w h]
    have hw : s.ReachedBefore .mul (State.wrote { s with psw := p } a v) :=
      State.reachedBefore_of_partialEffects rfl rfl
    exact hw.endsBy_stored (by decide) b w
  | false =>
    rw [State.storedTwice_of_refuses v b w h]
    exact .raised (State.reachedBefore_withPsw rfl s p).answered (by decide) _

/-- `djnz` leaves partial effects: its byte when its label does not resolve (R263). -/
theorem State.endsBy_decremented (s : State) (a : Byte) (l : Half) : s.EndsBy .djnz (s.decremented a l) := by
  cases h : s.memAccepts a with
  | true =>
    rw [State.decremented_of_accepts l h]
    have hf : s.ReachedBefore .djnz (s.wrote a (s.mem.read a - 1)) := State.reachedBefore_of_partialEffects rfl rfl
    exact hf.endsBy_branched (by decide) _ l
  | false =>
    rw [State.decremented_of_refuses l h]
    exact .raised (s.reachedBefore_self .djnz).answered (by decide) _

/-! ### The ends of every command -/

/-- From every state the command ends, in one of the ways of its mnemonic. -/
def Cmd.EndsBy (m : Mnemonic) (c : Cmd Xfer) : Prop := ∀ s, ∃ t, runCommand c s = .next t ∧ s.EndsBy m t

theorem endsBy_movCommand (d : Dst) (v : Src) : Cmd.EndsBy .mov (movCommand d v) := fun s =>
  ⟨_, (exec_mov d v s).symm.trans (exec_mov_next d v s),
    ((s.reachedBefore_self _).endsBy_stored (by decide) _ _).afterReads _ (by decide)⟩

theorem endsBy_addCommand (d : Dst) (v : Src) : Cmd.EndsBy .add (addCommand d v) := fun s =>
  ⟨_, (exec_add d v s).symm.trans (exec_add_next d v s),
    ((State.reachedBefore_withPsw (m := .add) rfl s _).endsBy_stored (by decide) _ _).afterReads _ (by decide)⟩

theorem endsBy_subbCommand (d : Dst) (v : Src) : Cmd.EndsBy .subb (subbCommand d v) := fun s =>
  ⟨_, (exec_subb d v s).symm.trans (exec_subb_next d v s),
    ((State.reachedBefore_withPsw (m := .subb) rfl s _).endsBy_stored (by decide) _ _).afterReads _ (by decide)⟩

theorem endsBy_anlCommand (d : Dst) (v : Src) : Cmd.EndsBy .anl (anlCommand d v) := fun s =>
  ⟨_, (exec_anl d v s).symm.trans (exec_anl_next d v s),
    ((State.reachedBefore_withPsw (m := .anl) rfl s _).endsBy_stored (by decide) _ _).afterReads _ (by decide)⟩

theorem endsBy_orlCommand (d : Dst) (v : Src) : Cmd.EndsBy .orl (orlCommand d v) := fun s =>
  ⟨_, (exec_orl d v s).symm.trans (exec_orl_next d v s),
    ((State.reachedBefore_withPsw (m := .orl) rfl s _).endsBy_stored (by decide) _ _).afterReads _ (by decide)⟩

theorem endsBy_incCommand (d : Dst) : Cmd.EndsBy .inc (incCommand d) := fun s =>
  ⟨_, (exec_inc d s).symm.trans (exec_inc_next d s),
    ((s.reachedBefore_self _).endsBy_stored (by decide) _ _).afterReads _ (by decide)⟩

theorem endsBy_decCommand (d : Dst) : Cmd.EndsBy .dec (decCommand d) := fun s =>
  ⟨_, (exec_dec d s).symm.trans (exec_dec_next d s),
    ((s.reachedBefore_self _).endsBy_stored (by decide) _ _).afterReads _ (by decide)⟩

theorem endsBy_rlCommand (d : Dst) : Cmd.EndsBy .rl (rlCommand d) := fun s =>
  ⟨_, (exec_rl d s).symm.trans (exec_rl_next d s),
    ((s.reachedBefore_self _).endsBy_stored (by decide) _ _).afterReads _ (by decide)⟩

theorem endsBy_rrCommand (d : Dst) : Cmd.EndsBy .rr (rrCommand d) := fun s =>
  ⟨_, (exec_rr d s).symm.trans (exec_rr_next d s),
    ((s.reachedBefore_self _).endsBy_stored (by decide) _ _).afterReads _ (by decide)⟩

theorem endsBy_daCommand (d : Dst) : Cmd.EndsBy .da (daCommand d) := fun s => by
  refine ⟨_, (exec_da d s).symm.trans (exec_da_next d s), .afterReads _ (by decide) ?_⟩
  split
  · exact .raised (s.reachedBefore_self _) (by decide) _
  · exact (s.reachedBefore_self _).endsBy_stored (by decide) _ _

theorem endsBy_orgCommand (a : Half) : Cmd.EndsBy .org (orgCommand a) := fun s => by
  cases h : s.pcAccepts a with
  | true => exact ⟨_, exec_org_of_accepts h, .transferred _ a⟩
  | false => exact ⟨_, exec_org_of_refuses h, .raised (s.reachedBefore_self _).answered (by decide) a⟩

theorem endsBy_mulCommand : Cmd.EndsBy .mul mulCommand := fun s =>
  ⟨_, exec_mul_next s, .afterReads _ (by decide) (s.endsBy_storedTwice _ _ _ _ _)⟩

theorem endsBy_setbCommand (b : Byte) : Cmd.EndsBy .setb (setbCommand b) := fun s =>
  ⟨_, exec_setb_next b s, (s.reachedBefore_self _).endsBy_storedBit (by decide) b true⟩

theorem endsBy_clrCommand (b : Byte) : Cmd.EndsBy .clr (clrCommand b) := fun s =>
  ⟨_, exec_clr_next b s, (s.reachedBefore_self _).endsBy_storedBit (by decide) b false⟩

theorem endsBy_cplCommand (b : Byte) : Cmd.EndsBy .cpl (cplCommand b) := fun s => by
  cases h : s.bitServes b with
  | true => exact ⟨_, exec_cpl_of_serves h, (s.reachedBefore_self _).endsBy_storedBit (by decide) b _⟩
  | false => exact ⟨_, exec_cpl_of_unserved h, .raised (s.reachedBefore_self _) (by decide) _⟩

theorem endsBy_jzCommand (l : Half) : Cmd.EndsBy .jz (jzCommand l) := fun s =>
  ⟨_, exec_jz_next l s, ((s.reachedBefore_self _).endsBy_branched (by decide) _ l).afterReads _ (by decide)⟩

theorem endsBy_jnzCommand (l : Half) : Cmd.EndsBy .jnz (jnzCommand l) := fun s =>
  ⟨_, exec_jnz_next l s, ((s.reachedBefore_self _).endsBy_branched (by decide) _ l).afterReads _ (by decide)⟩

theorem endsBy_jcCommand (l : Half) : Cmd.EndsBy .jc (jcCommand l) := fun s =>
  ⟨_, exec_jc_next l s, (s.reachedBefore_self _).endsBy_branched (by decide) _ l⟩

theorem endsBy_jncCommand (l : Half) : Cmd.EndsBy .jnc (jncCommand l) := fun s =>
  ⟨_, exec_jnc_next l s, (s.reachedBefore_self _).endsBy_branched (by decide) _ l⟩

theorem endsBy_djnzCommand (d : Dst) (l : Half) : Cmd.EndsBy .djnz (djnzCommand d l) := fun s =>
  ⟨_, (exec_djnz d l s).symm.trans (exec_djnz_next d l s), (s.endsBy_decremented _ l).afterReads _ (by decide)⟩

theorem endsBy_djnzAccCommand (l : Half) : Cmd.EndsBy .djnz (djnzAccCommand l) := fun s =>
  ⟨_, exec_djnzAcc_next l s, (s.endsBy_decremented _ l).afterReads _ (by decide)⟩

theorem endsBy_cjneCommand (d : Dst) (v : Src) (l : Half) : Cmd.EndsBy .cjne (cjneCommand d v l) := fun s =>
  ⟨_, (exec_cjne d v l s).symm.trans (exec_cjne_next d v l s),
    ((State.reachedBefore_withPsw (m := .cjne) rfl s _).endsBy_branched (by decide) _ l).afterReads _ (by decide)⟩

theorem endsBy_notImplementedCommand (op : Byte) (hm : .notImplemented ∈ possibleFailures m) :
    Cmd.EndsBy m (notImplementedCommand op) := fun s =>
  ⟨_, runCommand_error (run_raise _ _ s), .raised (s.reachedBefore_self m) hm _⟩

theorem endsBy_commandOf : (i : Instr) → Cmd.EndsBy i.mnemonic (commandOf i)
  | .movDirDir _ _ | .movDirInd _ _ | .movDirImm _ _ | .movIndDir _ _ | .movIndInd _ _ | .movIndImm _ _ =>
    endsBy_movCommand _ _
  | .addDirDir _ _ | .addDirInd _ _ | .addDirImm _ _ | .addIndDir _ _ | .addIndInd _ _ | .addIndImm _ _ =>
    endsBy_addCommand _ _
  | .subbDirDir _ _ | .subbDirInd _ _ | .subbDirImm _ _ | .subbIndDir _ _ | .subbIndInd _ _ | .subbIndImm _ _ =>
    endsBy_subbCommand _ _
  | .anlDirDir _ _ | .anlDirInd _ _ | .anlDirImm _ _ | .anlIndDir _ _ | .anlIndInd _ _ | .anlIndImm _ _ =>
    endsBy_anlCommand _ _
  | .orlDirDir _ _ | .orlDirInd _ _ | .orlDirImm _ _ | .orlIndDir _ _ | .orlIndInd _ _ | .orlIndImm _ _ =>
    endsBy_orlCommand _ _
  | .incDir _ | .incInd _ => endsBy_incCommand _
  | .decDir _ | .decInd _ => endsBy_decCommand _
  | .rlDir _ | .rlInd _ => endsBy_rlCommand _
  | .rrDir _ | .rrInd _ => endsBy_rrCommand _
  | .daDir _ | .daInd _ => endsBy_daCommand _
  | .org _ => endsBy_orgCommand _
  | .mul => endsBy_mulCommand
  | .setb _ => endsBy_setbCommand _
  | .clr _ => endsBy_clrCommand _
  | .cpl _ => endsBy_cplCommand _
  | .jz _ => endsBy_jzCommand _
  | .jnz _ => endsBy_jnzCommand _
  | .jc _ => endsBy_jcCommand _
  | .jnc _ => endsBy_jncCommand _
  | .djnzDir _ _ | .djnzInd _ _ => endsBy_djnzCommand _ _
  | .djnzAcc _ => endsBy_djnzAccCommand _
  | .cjneDirDir _ _ _ | .cjneDirInd _ _ _ | .cjneDirImm _ _ _ | .cjneIndDir _ _ _ | .cjneIndInd _ _ _
  | .cjneIndImm _ _ _ => endsBy_cjneCommand _ _ _
  | .jb | .jnb => endsBy_notImplementedCommand _ (by decide)

/-- Every instruction ends from every state, in one of the ways of its mnemonic. -/
theorem exec_endsBy (i : Instr) (s : State) : ∃ t, exec i s = .next t ∧ s.EndsBy i.mnemonic t := by
  rw [exec_eq]; exact endsBy_commandOf i s

theorem endsBy_of_exec {i : Instr} {s t : State} (h : exec i s = .next t) : s.EndsBy i.mnemonic t := by
  obtain ⟨u, hu, hends⟩ := exec_endsBy i s
  obtain rfl := Host.Outcome.next.inj (hu.symm.trans h)
  exact hends

/-! ### One consistent status (R260, R262) -/

/-- The status port of `t`, the end of a command started in `s`, agrees with itself and with the noted target. -/
structure State.OneStatus (s t : State) : Prop where
  okInfo : t.status = .ok → t.info = 0
  xferOk : t.xfer = true → t.status = .ok
  xferTarget : s.target = none → (t.xfer = true ↔ t.target.isSome = true)

theorem State.oneStatus_completed (ht : f.target = s.target) : s.OneStatus f.completed where
  okInfo _ := rfl
  xferOk _ := rfl
  xferTarget hs := by simp [ht, hs]

theorem State.oneStatus_transferred (s f : State) (a : Half) : s.OneStatus (f.transferred a) where
  okInfo _ := rfl
  xferOk _ := rfl
  xferTarget _ := by simp

theorem State.oneStatus_raised (ht : f.target = s.target) {st : Status} (hst : st ≠ .ok) (n : Half) :
    s.OneStatus (f.raised st n) where
  okInfo h := absurd h hst
  xferOk := nofun
  xferTarget hs := by simp [ht, hs]

/-- R261 lists failures alone. -/
theorem ne_ok_of_mem_possibleFailures {st : Status} (h : st ∈ possibleFailures m) : st ≠ .ok := by
  rintro rfl
  cases m <;> exact absurd h (by decide)

theorem State.EndsBy.oneStatus {t : State} (h : s.EndsBy m t) : s.OneStatus t := by
  cases h with
  | completed ht => exact State.oneStatus_completed ht
  | transferred f a => exact s.oneStatus_transferred f a
  | raised hf hst n => exact State.oneStatus_raised hf.target (ne_ok_of_mem_possibleFailures hst) n

/-- Settles O45: every end of a command has one consistent status. -/
theorem everyCommandReturnsOneStatus : Obligations.EveryCommandReturnsOneStatus := by
  intro i s
  obtain ⟨t, ht, hends⟩ := exec_endsBy i s
  obtain ⟨hinfo, hxfer, htarget⟩ := hends.oneStatus
  exact ⟨t, ht, hinfo, hxfer, htarget⟩

/-! ### Failures (R261, R263) -/

/-- Settles O47: of the ends of a command two are OK, and the third is a failure of its row. -/
theorem failuresEachCommandCanReturn : Obligations.FailuresEachCommandCanReturn := by
  intro i s t h
  cases endsBy_of_exec h with
  | completed _ => exact .inl rfl
  | transferred _ _ => exact .inl rfl
  | raised _ hst _ => exact .inr hst

/-- Settles O48: outside the commands R263 names, only answers have been used when a command raises. -/
theorem otherFailuresLeaveNoEffect : Obligations.OtherFailuresLeaveNoEffect := by
  intro i s t h hfailed hm
  cases endsBy_of_exec h with
  | completed _ => exact absurd rfl hfailed
  | transferred _ _ => exact absurd rfl hfailed
  | raised hf _ n =>
    obtain ⟨q, rfl⟩ := hf.noEffect hm
    exact ⟨q, rfl⟩

/-- Settles O60: the codes by the table of R260, and each is at most 10. -/
theorem statusCodes : Obligations.StatusCodes := by
  refine ⟨⟨rfl, rfl, rfl, rfl, rfl, rfl, rfl, rfl, rfl, rfl, rfl⟩, fun st => ?_⟩
  cases st <;> decide

end Sys2Proof.Machine
end

section
/-! The reference dispatcher (60_exceptions.md R280 to R284): how it answers the core's requests, what a step does, where
a run ends, and what every step and host action keeps. -/

namespace Sys2Proof.Machine

variable {s t : State}

/-! ### Launch (R280) -/

/-- Settles O10: `State.launch` stores what it is given. -/
theorem launchState : Obligations.LaunchState :=
  fun _ _ _ _ _ _ _ _ => ⟨rfl, rfl, rfl, rfl, rfl, rfl, rfl, rfl⟩

/-! ### Answers to requests (R53, R282) -/

theorem State.nextAnswer_eq_false_iff (s : State) : s.nextAnswer = false ↔ s.answers.head? = some false := by
  rw [State.nextAnswer]
  cases s.answers with
  | nil => simp
  | cons x _ => simp

theorem State.nextAnswer_eq_true_iff (s : State) : s.nextAnswer = true ↔ s.answers.head? ≠ some false := by
  rw [ne_eq, ← nextAnswer_eq_false_iff, Bool.not_eq_false]

theorem State.memServes_eq_true {a : Byte} (h : s.cfg.memUnserved.contains a = false) : s.memServes a = true := by
  rw [State.memServes, h]; rfl

theorem State.memServes_eq_false {a : Byte} (h : s.cfg.memUnserved.contains a = true) : s.memServes a = false := by
  rw [State.memServes, h]; rfl

theorem State.bitServes_eq_true {b : Byte} (h : s.cfg.bitUnserved.contains b = false) : s.bitServes b = true := by
  rw [State.bitServes, h]; rfl

theorem State.bitServes_eq_false {b : Byte} (h : s.cfg.bitUnserved.contains b = true) : s.bitServes b = false := by
  rw [State.bitServes, h]; rfl

theorem State.memAccepts_of_unserved {a : Byte} (h : s.memServes a = false) : s.memAccepts a = false := by
  rw [State.memAccepts, h]; rfl

theorem State.bitAccepts_of_unserved {b : Byte} (h : s.bitServes b = false) : s.bitAccepts b = false := by
  rw [State.bitAccepts, h]; rfl

/-- Whether a write of a served address that is not always refused succeeds is the next answer. -/
theorem State.memAccepts_eq_nextAnswer {a : Byte} (h : s.memServes a = true)
    (hr : s.cfg.memWriteRefused.contains a = false) : s.memAccepts a = s.nextAnswer := by
  rw [State.memAccepts, h, hr]; rfl

theorem State.bitAccepts_eq_nextAnswer {b : Byte} (h : s.bitServes b = true)
    (hr : s.cfg.bitWriteRefused.contains b = false) : s.bitAccepts b = s.nextAnswer := by
  rw [State.bitAccepts, h, hr]; rfl

theorem State.pcAccepts_eq_nextAnswer (h : s.cfg.pcRefused = []) (a : Half) : s.pcAccepts a = s.nextAnswer := by
  rw [State.pcAccepts, h]; rfl

/-- Settles O9: a read is answered by whether its address is served, a write by the next answer, where its address does
not fail it, and a jump by the labels. -/
theorem portRequestsAreAnswered : Obligations.PortRequestsAreAnswered := by
  intro s
  refine ⟨fun _ h => memRead_ok (State.memServes_eq_true h), fun a h => ?memUnserved, fun a v h hr => ?memWrite,
    fun _ h => bitRead_ok (State.bitServes_eq_true h), fun b h => ?bitUnserved, fun b x h hr => ?bitWrite,
    fun _ _ => jump_ok, fun _ => jump_fail, fun a h => ?pcSet⟩
  case memUnserved =>
    have hs := State.memServes_eq_false h
    exact ⟨memRead_fail hs, fun v => ⟨_, memWrite_fail v (State.memAccepts_of_unserved hs)⟩⟩
  case memWrite =>
    have ha := State.memAccepts_eq_nextAnswer (State.memServes_eq_true h) hr
    exact ⟨fun hn => memWrite_ok v (ha.trans (s.nextAnswer_eq_true_iff.mpr hn)),
      fun hn => memWrite_fail v (ha.trans (s.nextAnswer_eq_false_iff.mpr hn))⟩
  case bitUnserved =>
    have hs := State.bitServes_eq_false h
    exact ⟨bitRead_fail hs, fun x => ⟨_, bitWrite_fail x (State.bitAccepts_of_unserved hs)⟩⟩
  case bitWrite =>
    have ha := State.bitAccepts_eq_nextAnswer (State.bitServes_eq_true h) hr
    exact ⟨fun hn => bitWrite_ok x (ha.trans (s.nextAnswer_eq_true_iff.mpr hn)),
      fun hn => bitWrite_fail x (ha.trans (s.nextAnswer_eq_false_iff.mpr hn))⟩
  case pcSet =>
    have ha := State.pcAccepts_eq_nextAnswer h a
    exact ⟨fun hn => pcSet_ok (ha.trans (s.nextAnswer_eq_true_iff.mpr hn)),
      fun hn => pcSet_fail (ha.trans (s.nextAnswer_eq_false_iff.mpr hn))⟩

/-! ### A presented word -/

/-- A word that is no command raises UNKNOWN_OPCODE or ILLEGAL_OPERAND (R85, R86). -/
theorem failureOf_status_ne_ok (e : CommandError) : (failureOf e).status ≠ .ok := by
  cases e <;> exact nofun

theorem present_next (w : CW) (s : State) : ∃ t, present w s = .next t := by
  cases h : decode w with
  | ok i =>
    obtain ⟨t, ht, -⟩ := exec_endsBy i s
    exact ⟨t, (present_of_decode_ok h s).trans ht⟩
  | error e => exact ⟨_, present_of_decode_error h s⟩

/-- A presented word ends with one consistent status, command or not (R260). -/
theorem present_oneStatus {w : CW} (h : present w s = .next t) : s.OneStatus t := by
  rcases present_eq_next h with ⟨i, -, hi⟩ | ⟨e, -, rfl⟩
  · exact (endsBy_of_exec hi).oneStatus
  · exact State.oneStatus_raised rfl (failureOf_status_ne_ok e) _

/-- Both memories have their canonical form. -/
structure State.CanonicalMemories (s : State) : Prop where
  mem : s.mem.wf = true
  bits : s.bits.wf = true

/-- The canonical form of the memories is kept from the first state to the second. -/
def State.KeepsCanonical (s t : State) : Prop := s.CanonicalMemories → t.CanonicalMemories

theorem keepsCanonical_composes : Composes State.KeepsCanonical where
  refl _ h := h
  trans _ _ _ h h' hs := h' (h hs)

theorem byteChanges_keepsCanonical : ByteChanges State.KeepsCanonical where
  toComposes := keepsCanonical_composes
  answered _ h := ⟨h.mem, h.bits⟩
  wrote _ a v h := ⟨Memory.wf_write a v h.mem, h.bits⟩
  withPsw _ _ h := ⟨h.mem, h.bits⟩
  noted _ _ h := ⟨h.mem, h.bits⟩

theorem bitChanges_keepsCanonical : BitChanges State.KeepsCanonical where
  toComposes := keepsCanonical_composes
  answered := byteChanges_keepsCanonical.answered
  wroteBit _ b x h := ⟨h.mem, BitMemory.wf_write b x h.bits⟩

theorem State.keepsCanonical_report (s : State) (st : Status) (n : Half) (x : Xfer) :
    s.KeepsCanonical (s.report st n x) := fun h => ⟨h.mem, h.bits⟩

theorem exec_keepsCanonical {i : Instr} (h : exec i s = .next t) : s.KeepsCanonical t :=
  exec_within (within_commandOf i (fun _ => bitChanges_keepsCanonical) fun _ => byteChanges_keepsCanonical)
    (fun s t st n x hst => keepsCanonical_composes.trans s t _ hst (t.keepsCanonical_report st n x)) h

theorem present_keepsCanonical {w : CW} (h : present w s = .next t) : s.KeepsCanonical t := by
  rcases present_eq_next h with ⟨i, -, hi⟩ | ⟨e, -, rfl⟩
  · exact exec_keepsCanonical hi
  · exact s.keepsCanonical_report _ _ _

/-! ### A step (R281, R283) -/

theorem step_of_stopped (h : s.stopped = true) : step s = .fault (.failed s.status s.info s.pc) := if_pos h

theorem step_of_no_word (hs : s.stopped = false) (hw : s.prog.word? s.pc = none) : step s = .fault (.halt s.pc) := by
  have hfetch : s.fetch = none := hw
  simp only [step, dispatcherStep, hs, hfetch]
  rfl

/-- A step presents the word at PC with the target cleared, and advances. -/
theorem step_of_present {w : CW} (hs : s.stopped = false) (hw : s.prog.word? s.pc = some w)
    (ht : present w s.clearTarget = .next t) : step s = .next t.advance := by
  have hfetch : s.fetch = some w := hw
  simp only [step, dispatcherStep, hs, hfetch, ht]
  rfl

theorem State.advance_of_failed (h : s.status ≠ .ok) : s.advance = { s with stopped := true } := if_pos h

theorem State.advance_of_transfer {a : Half} (h : s.status = .ok) (hx : s.xfer = true) (ht : s.target = some a) :
    s.advance = { s with pc := a } := by
  simp [State.advance, h, hx, ht]

theorem State.advance_of_completed (h : s.status = .ok) (hx : s.xfer = false) :
    s.advance = { s with pc := s.pc + 1 } := by
  simp [State.advance, h, hx]

/-- From a run that has not ended, advancing ends it exactly after a failure. -/
theorem State.advance_stopped_iff (hs : s.stopped = false) : s.advance.stopped = true ↔ s.status ≠ .ok := by
  rcases s.advance_cases with ⟨h, e⟩ | ⟨h, -, e⟩ | ⟨h, -, e⟩
  · rw [e]; exact iff_of_true rfl h
  · rw [e]; exact iff_of_false (by simp [hs]) (by simp [h])
  · rw [e]; exact iff_of_false (by simp [hs]) (by simp [h])

/-- A presented word does not end the run: the dispatcher does, when it advances. -/
theorem present_stopped {w : CW} (h : present w s = .next t) : t.stopped = s.stopped := by
  obtain ⟨-, -, -, -, -, hstopped, -⟩ := present_sameElsewhere h
  exact hstopped

theorem present_pc {w : CW} (h : present w s = .next t) : t.pc = s.pc := by
  obtain ⟨-, hpc, -⟩ := present_sameElsewhere h
  exact hpc

theorem half_add_one (a : Half) : a + 1 = BitVec.ofNat 16 ((a.toNat + 1) % 65536) := by
  apply BitVec.eq_of_toNat_eq
  rw [BitVec.toNat_add, BitVec.toNat_ofNat, Nat.mod_mod]
  rfl

/-- Settles O6: the word at PC decodes to the instruction, so presenting it executes it. -/
theorem stepRunsDecodedCommand : Obligations.StepRunsDecodedCommand := by
  intro s w i hs hw hd
  obtain ⟨t, ht, -⟩ := exec_endsBy i s.clearTarget
  exact ⟨t, ht, step_of_decode hs hw hd ht⟩

/-- Settles O7: a step advances from the state the presented word left, in which a transfer has a target. -/
theorem dispatcherAdvancesByStatus : Obligations.DispatcherAdvancesByStatus := by
  refine fun s hs => ⟨step_of_no_word hs, fun w hw => ?_⟩
  obtain ⟨t, ht⟩ := present_next w s.clearTarget
  have hstep := step_of_present hs hw ht
  have hpc : t.pc = s.pc := (present_pc ht).trans s.clearTarget_pc
  refine ⟨t, ht, hpc, fun hst => ?failed, fun hst hx => ?transfer, fun hst hx => ?completed⟩
  case failed =>
    rw [hstep, State.advance_of_failed hst, ← hpc]
    exact ⟨rfl, step_of_stopped rfl⟩
  case transfer =>
    obtain ⟨a, ha⟩ := Option.isSome_iff_exists.mp (((present_oneStatus ht).xferTarget rfl).mp hx)
    exact ⟨a, ha, by rw [hstep, State.advance_of_transfer hst hx ha]⟩
  case completed => rw [hstep, State.advance_of_completed hst hx, half_add_one, hpc]

/-- Settles O8: a step ends the run where it has no word to present, and otherwise has a next state. -/
theorem runEndsInHaltOrFault : Obligations.RunEndsInHaltOrFault := by
  refine fun s => ⟨step_of_stopped, step_of_no_word, fun hs hw => ?_⟩
  obtain ⟨w, hw⟩ := Option.isSome_iff_exists.mp hw
  obtain ⟨t, ht⟩ := present_next w s.clearTarget
  refine ⟨t.advance, step_of_present hs hw ht, ?_⟩
  rw [State.advance_status]
  exact State.advance_stopped_iff ((present_stopped ht).trans hs)

/-! ### The invariant -/

/-- A word presented without a target, in a run that has not ended, leaves a state that meets the invariant. -/
theorem present_inv {w : CW} (hs : s.stopped = false) (htarget : s.target = none) (hmemories : s.CanonicalMemories)
    (hprog : s.prog.wf = true) (hlabels : s.labels.wf = true) (h : present w s = .next t) : t.Inv := by
  obtain ⟨hmem, hbits⟩ := present_keepsCanonical h hmemories
  obtain ⟨hinfo, hxfer, hxferTarget⟩ := present_oneStatus h
  obtain ⟨-, -, -, hprogEq, hlabelsEq, hstopped, -⟩ := present_sameElsewhere h
  exact {
    memWf := hmem
    bitsWf := hbits
    progWf := hprogEq ▸ hprog
    labelsWf := hlabelsEq ▸ hlabels
    okInfo := hinfo
    xferOk := hxfer
    xferTarget := (hxferTarget htarget).mp
    stoppedFailed := fun ht => nomatch (hstopped.trans hs).symm.trans ht }

theorem State.Inv.advance (h : s.Inv) (hs : s.stopped = false) : s.advance.Inv where
  memWf := s.advance_mem ▸ h.memWf
  bitsWf := s.advance_bits ▸ h.bitsWf
  progWf := s.advance_prog ▸ h.progWf
  labelsWf := s.advance_labels ▸ h.labelsWf
  okInfo := by simpa using h.okInfo
  xferOk := by simpa using h.xferOk
  xferTarget := by simpa using h.xferTarget
  stoppedFailed := by simpa using (State.advance_stopped_iff hs).mp

/-- Settles O12: the command at PC starts without a target and keeps the canonical form, and advancing ends the run
only after a failure. -/
theorem stepKeepsInvariant : Obligations.StepKeepsInvariant := by
  intro s t hinv h
  obtain ⟨hs, w, u, -, hu, rfl⟩ := step_eq_next h
  have huInv : u.Inv :=
    present_inv (s := s.clearTarget) hs rfl ⟨hinv.memWf, hinv.bitsWf⟩ hinv.progWf hinv.labelsWf hu
  exact huInv.advance ((present_stopped hu).trans hs)

theorem State.Inv.withPsw (h : s.Inv) (p : Psw) : State.Inv { s with psw := p } :=
  { h with }

theorem State.Inv.hostAct (h : s.Inv) (a : HostAction) : (s.hostAct a).Inv := by
  cases a with
  | writeFlag f x =>
    obtain ⟨p, hp⟩ := s.writeFlag_eq_withPsw f x
    rw [State.hostAct, hp]
    exact h.withPsw p
  | writeByte a v => exact { h with memWf := Memory.wf_write a v h.memWf }
  | writeBit b x => exact { h with bitsWf := BitMemory.wf_write b x h.bitsWf }

/-- The loaded word stands in PROG, and the run has not ended. -/
theorem State.Inv.loadWord (h : s.Inv) (w : CW) : (s.loadWord w).Inv :=
  { h with progWf := Program.wf_put s.pc w h.progWf, stoppedFailed := nofun }

/-- Settles O13: a host action changes a flag, a byte or a bit, and a load puts its word where the next step fetches. -/
theorem hostActionsAndLoadingKeepInvariant : Obligations.HostActionsAndLoadingKeepInvariant :=
  fun s hinv => ⟨hinv.hostAct, fun _ _ => hinv.loadWord _,
    fun _ _ _ => step_of_present rfl (Program.word?_put_self s.prog s.pc _)⟩

end Sys2Proof.Machine
end
